-- ==== Sys2Proof/Word.lean ====
section
/-! DEFINITION. The words of the FG-3216 (00_scope.md section 0.6): bytes, addresses, line numbers, tags, lanes. -/

namespace Sys2Proof

/-- One byte. -/
abbrev Byte := BitVec 8

/-- A byte address, 0x000000 to 0xFFFFFF (section 0.6.2). -/
abbrev Addr := BitVec 24

/-- A line number, 0 to 524,287 (section 0.6.2). -/
abbrev Line := BitVec 19

/-- A request or access tag, 0 to 15 (R71, R74). -/
abbrev Tag := BitVec 4

/-- An epoch number, a 32-bit counter that wraps (section 0.6.3). -/
abbrev EpochNo := BitVec 32

/-- A journal slot number, 0 to 255 (R5). -/
abbrev SlotNo := Fin 256

/-- A region index, 0 to 15 (R100). -/
abbrev RegionNo := Fin 16

/-- The four byte lanes of the data path: lane k carries the byte at the word's address plus k (R71). -/
structure Lanes where
  lane0 : Byte
  lane1 : Byte
  lane2 : Byte
  lane3 : Byte
  deriving DecidableEq, Repr, Inhabited

/-- The bytes of a word from its lowest address up. -/
def Lanes.toList (w : Lanes) : List Byte := [w.lane0, w.lane1, w.lane2, w.lane3]

/-- The image of a line: words 0 to 7 from the lowest address (R5, R11). -/
abbrev Image := Vector Lanes 8

end Sys2Proof
end

