-- ==== Sys2Proof/Syntax.lean ====
section
/-! DEFINITION. The commands of the FG-3216: one constructor per row of spec/opcode_table.json. -/

namespace Sys2Proof

/-- The size of a request: 1, 2 or 4 bytes (R71). -/
inductive Size where
  | one
  | two
  | four
  deriving DecidableEq, Repr, Inhabited

/-- What a host request asks for; a WRITE carries the four lanes, of which the lanes moved count (R71). -/
inductive HostOp where
  | READ
  | WRITE (data : Lanes)
  deriving DecidableEq, Repr

/-- Memory's response: OK with the lanes of the data path (they count for a read alone), or ERR (R71). -/
inductive MemoryAnswer where
  | OK (data : Lanes)
  | ERR
  deriving DecidableEq, Repr

/-- One command: a row of the table with the values it carries. -/
inductive Instr where
  | hostRequest (op : HostOp) (addr : Addr) (size : Size) (tag : Tag)
  | memoryResponse (tag : Tag) (answer : MemoryAnswer)
  | memoryResponseLimit
  | holdDeadline
  | allocationWriteEnd
  | completionWriteEnd
  | releaseWriteEnd
  | sealWriteEnd
  | clearWriteEnd
  | unwindingMarkEnd
  | retireWriteEnd
  | finishWriteEnd
  | discardWriteEnd
  | markRequest
  | autoCommitExpiry
  | windowBoundary
  | vddFail
  | vddSwitchOver (vbkBelowMinimum : Bool)
  | vddGood
  | settleTimerExpiry
  | vbkLow
  | firstPower
  | rstAssert
  | rstRelease
  | bootCountWriteEnd
  | initialisationWriteEnd
  | mcsFall
  | mcsRise
  | readStatus
  | commit
  | abort
  | retryRestore
  | discardJournal
  | stageRegion (index kind : Byte) (base limit : BitVec 24) (metered : Byte) (writeLimit : BitVec 24) (qualify action : Byte)
  | clearStaged
  | readRegion (index selection : Byte)
  | clearTrip (index : Byte)
  | setConfig (window hold level : Byte) (interval : BitVec 16)
  | readConfig
  | setEnables (enables : BitVec 16)
  | takeEvents
  | takeRefusals (n : Byte)
  | readFault
  | clearFault
  | readOutcomes
  | readEntry (slot : Byte)
  | unknownCode (code : Byte)
  | mckRisingEdge (mdi : Bool)
  | markRisingEdge
  | markFallingEdge
  | rstFallingEdge
  deriving DecidableEq, Repr

end Sys2Proof
end

