-- ==== Sys2Proof/Decode.lean ====
section
/-! DEFINITION. Reading commands from bits: the table's words (no row has bits) and the frames of the management link
(11_link_formats.md). -/

namespace Sys2Proof

/-- The command that a table word spells. No row of the table gives bits, so no word spells one. -/
def decodeTableWord (_nbits _w : Nat) : Option Instr := none

/-- The parameter bytes of a link command by its code, none for a code that names no command (section 11.2, R174). -/
def paramCount (code : Byte) : Option Nat :=
  match code.toNat with
  | 0x01 => some 0
  | 0x02 => some 0
  | 0x03 => some 0
  | 0x04 => some 0
  | 0x05 => some 0
  | 0x10 => some 14
  | 0x11 => some 0
  | 0x12 => some 2
  | 0x13 => some 1
  | 0x20 => some 5
  | 0x21 => some 0
  | 0x22 => some 2
  | 0x23 => some 0
  | 0x30 => some 1
  | 0x31 => some 0
  | 0x32 => some 0
  | 0x33 => some 0
  | 0x34 => some 1
  | _ => none

/-- Two bytes as a 16-bit field, most significant byte first (section 0.6.5). -/
def field16 (hi lo : Byte) : BitVec 16 := hi ++ lo

/-- Three bytes as a 24-bit field, most significant byte first (section 0.6.5). -/
def field24 (hi mid lo : Byte) : BitVec 24 := hi ++ mid ++ lo

/-- The bytes of a 16-bit field, most significant first. -/
def bytes16 (x : BitVec 16) : List Byte := [x.extractLsb' 8 8, x.extractLsb' 0 8]

/-- The bytes of a 24-bit field, most significant first. -/
def bytes24 (x : BitVec 24) : List Byte := [x.extractLsb' 16 8, x.extractLsb' 8 8, x.extractLsb' 0 8]

/-- The bytes of a 32-bit field, most significant first. -/
def bytes32 (x : BitVec 32) : List Byte :=
  [x.extractLsb' 24 8, x.extractLsb' 16 8, x.extractLsb' 8 8, x.extractLsb' 0 8]

/-- The command of a whole frame input: the code, then exactly its parameters in the order of section 11.2 (R185). None while
the input is short or longer than the code's parameter count. A code that names no command is taken with no parameters (R174). -/
def parseFrame (code : Byte) (params : List Byte) : Option Instr :=
  match code.toNat, params with
  | 0x01, [] => some .readStatus
  | 0x02, [] => some .commit
  | 0x03, [] => some .abort
  | 0x04, [] => some .retryRestore
  | 0x05, [] => some .discardJournal
  | 0x10, [index, kind, b2, b1, b0, l2, l1, l0, metered, w2, w1, w0, qualify, action] =>
    some (.stageRegion index kind (field24 b2 b1 b0) (field24 l2 l1 l0) metered (field24 w2 w1 w0) qualify action)
  | 0x11, [] => some .clearStaged
  | 0x12, [index, selection] => some (.readRegion index selection)
  | 0x13, [index] => some (.clearTrip index)
  | 0x20, [window, hold, level, hi, lo] => some (.setConfig window hold level (field16 hi lo))
  | 0x21, [] => some .readConfig
  | 0x22, [hi, lo] => some (.setEnables (field16 hi lo))
  | 0x23, [] => some .takeEvents
  | 0x30, [n] => some (.takeRefusals n)
  | 0x31, [] => some .readFault
  | 0x32, [] => some .clearFault
  | 0x33, [] => some .readOutcomes
  | 0x34, [slot] => some (.readEntry slot)
  | _, [] => if (paramCount code).isNone then some (.unknownCode code) else none
  | _, _ => none

/-- The input bytes of the frame that carries a link command: its code, then its parameters (R185). None for a row that is no
link command. -/
def frameBytes : Instr → Option (List Byte)
  | .readStatus => some [0x01]
  | .commit => some [0x02]
  | .abort => some [0x03]
  | .retryRestore => some [0x04]
  | .discardJournal => some [0x05]
  | .stageRegion index kind base limit metered writeLimit qualify action =>
    some ([0x10, index, kind] ++ bytes24 base ++ bytes24 limit ++ [metered] ++ bytes24 writeLimit ++ [qualify, action])
  | .clearStaged => some [0x11]
  | .readRegion index selection => some [0x12, index, selection]
  | .clearTrip index => some [0x13, index]
  | .setConfig window hold level interval => some ([0x20, window, hold, level] ++ bytes16 interval)
  | .readConfig => some [0x21]
  | .setEnables enables => some (0x22 :: bytes16 enables)
  | .takeEvents => some [0x23]
  | .takeRefusals n => some [0x30, n]
  | .readFault => some [0x31]
  | .clearFault => some [0x32]
  | .readOutcomes => some [0x33]
  | .readEntry slot => some [0x34, slot]
  | .unknownCode code => some [code]
  | _ => none

/-- The bits of a byte in the order of the link, most significant first (section 0.6.5, R167). -/
def bitsOfByte (b : Byte) : List Bool :=
  [b.getLsbD 7, b.getLsbD 6, b.getLsbD 5, b.getLsbD 4, b.getLsbD 3, b.getLsbD 2, b.getLsbD 1, b.getLsbD 0]

/-- The bits of a run of bytes in the order of the link. -/
def bitsOfBytes (bs : List Byte) : List Bool := bs.flatMap bitsOfByte

/-- The byte whose first sampled bits are `shift` and whose next sampled bit is `bit` (R169). -/
def shiftIn (shift : Byte) (bit : Bool) : Byte := shift <<< 1 ||| (BitVec.ofBool bit).setWidth 8

end Sys2Proof
end

