-- ==== Sys2Proof/Machine/Store.lean ====
section
/-! DEFINITION. What the retention store holds (01 R1 to R5, 02 R44, 09 R156), as plain data. -/

namespace Sys2Proof.Machine

/-- The state of the journal header (R3). -/
inductive HeaderState where
  | EMPTY
  | OPEN
  | SEALED
  | UNWINDING
  deriving DecidableEq, Repr, Inhabited

/-- Why the journal is unwinding, as the header records it (R3, R14). -/
inductive UnwindCause where
  | ABORT
  | TRIP
  | FAULT
  | RESTART
  deriving DecidableEq, Repr, Inhabited

/-- The journal header (R3). -/
structure Header where
  state : HeaderState
  /-- The committed epoch number E (R4). -/
  epoch : EpochNo
  /-- The boot count B (R4). -/
  boot : BitVec 16
  /-- How many slots are not FREE. -/
  count : Nat
  /-- The capture sequence of the next allocation (R6). -/
  nextSeq : BitVec 8
  cause : Option UnwindCause
  deriving DecidableEq, Repr, Inhabited

/-- The state of a slot (R5). -/
inductive SlotState where
  | FREE
  | FILLING
  | COMPLETE
  deriving DecidableEq, Repr, Inhabited

/-- One journal slot (R5). -/
structure Slot where
  state : SlotState
  line : Line
  region : RegionNo
  seq : BitVec 8
  image : Option Image
  deriving DecidableEq, Repr, Inhabited

/-- How an epoch ended (R44). -/
inductive OutcomeKind where
  | COMMITTED
  | ABORTED
  | TRIPPED
  | FAULTED
  | RESTART
  | DISCARDED
  deriving DecidableEq, Repr, Inhabited

/-- One record of the outcome history (R44). -/
structure OutcomeRecord where
  epoch : EpochNo
  kind : OutcomeKind
  entries : Nat
  boot : BitVec 16
  /-- Uptime in ms when the record was written. -/
  uptime : BitVec 32
  deriving DecidableEq, Repr, Inhabited

/-- The retention store (R1): header, slots, outcome history (newest first) and retention-valid latch. -/
structure Retention where
  header : Header
  slots : Vector Slot 256
  history : List OutcomeRecord
  latch : Bool
  deriving DecidableEq, Repr, Inhabited

end Sys2Proof.Machine
end

