-- ==== Sys2Proof/Config.lean ====
section
/-! DEFINITION. The free values: what the manual leaves undefined or unstated. Each is a constant without a body, so nothing
proved depends on what it is. -/

namespace Sys2Proof

/-- DESIGN CHOICE (log 6). The content of a retention store that has lost its hold: undefined (R155), untrusted (R156). The argument tells
one loss from the next. -/
opaque Config.lostStore : Nat → Machine.Retention

/-- DESIGN CHOICE (log 4). Which order two or more timer expiries of the same microsecond are taken in: either may be first (R75, R89, R122
and section 0.6.6). The argument tells one such microsecond from the next. -/
opaque Config.expiryOrder : Nat → Nat

/-- DESIGN CHOICE (log 8). How many of the retention writes asked for have begun when the part is stopped: a write begins in the store's own
time (R1, R21, R162), and no row carries it. The argument tells one stop from the next. -/
opaque Config.writesBegun : Nat → Nat

/-- DESIGN CHOICE (log 7). Whether lane 0 or lane 3 of a word is its most significant byte. READ_ENTRY sends each image word most
significant byte first (section 11.4); the manual does not say which lane that is. -/
opaque Config.lane0MostSignificant : Bool

end Sys2Proof
end

