-- ==== Sys2Proof/Machine/State.lean ====
section
/-! DEFINITION. The state of the FG-3216: every block of section 0.5, and the queue of waiting commands. -/

namespace Sys2Proof.Machine

/-- The part has no stop of its own: every row of the table has an effect, so no fault exists (INVENTORY.md, Faults). -/
inductive Fault where
  deriving DecidableEq, Repr

/-- Why a command has no meaning. -/
inductive Refusal where
  /-- Raised by an arm of exec whose row has no meaning yet; no arm raises it. Safe. -/
  | notModelled (mnemonic : String)
  deriving DecidableEq, Repr

/-- A retention write that a block has asked for (section 1.5, R161). -/
inductive RetentionWrite where
  | ALLOCATION
  | COMPLETION
  | RELEASE
  | SEAL
  | CLEAR
  | MARK
  | RETIRE
  | FINISH
  | DISCARD
  | BOOT_COUNT
  | INITIALISATION
  deriving DecidableEq, Repr

/-- READ or WRITE (R71). -/
inductive RequestKind where
  | READ
  | WRITE
  deriving DecidableEq, Repr

/-- The status of a response (R71). -/
inductive Status where
  | OK
  | ERR
  deriving DecidableEq, Repr

/-- Why a host request is answered ERR (section 7.2). -/
inductive Reason where
  | ALIGN
  | PROTECT
  | TRIPPED
  | FULL
  | MEMORY
  | HOLD_TIMEOUT
  | ABORTED
  | RECOVERING
  | STALLED
  | POWER
  | RESET
  deriving DecidableEq, Repr

/-- Where the request in progress stands (R72); HELD carries the hold's deadline in us from now, none for no limit (R87). -/
inductive Stage where
  | HELD (deadline : Option Nat)
  | CAPTURING
  | HAZARD
  | PORT_WAIT
  | AT_MEMORY
  deriving DecidableEq, Repr

/-- The request in progress at the host port (R72). -/
structure HostJob where
  op : HostOp
  addr : Addr
  size : Size
  tag : Tag
  stage : Stage
  /-- The region index of the most recent lookup, absent for no region or no lookup (R80, R86). -/
  region : Option RegionNo
  deriving DecidableEq, Repr

/-- A response on the host port (R71). The bus carries status, data and tag; the reason is the part's own (R73, R86). -/
structure HostResponse where
  status : Status
  data : List Byte
  tag : Tag
  reason : Option Reason
  deriving DecidableEq, Repr

/-- How an access failed (R137). -/
inductive Cause where
  | ERR
  | NO_RESPONSE
  deriving DecidableEq, Repr

/-- The states of the capture engine other than IDLE (R17). -/
inductive CaptureStage where
  | ALLOCATING
  | WAITING
  | READING
  | ABANDONING
  deriving DecidableEq, Repr

/-- The capture record of an engine that is not IDLE (R17). -/
structure CaptureJob where
  stage : CaptureStage
  slot : SlotNo
  line : Line
  region : RegionNo
  addr : Addr
  size : Size
  data : List Byte
  words : List Lanes
  /-- How the word read that ended the capture failed (R19). -/
  failure : Option Cause
  deriving DecidableEq, Repr

/-- The class of a posted write (R91). -/
inductive WriteClass where
  | PASS
  | GUARDED
  deriving DecidableEq, Repr

/-- One entry of the posted write queue (R91). -/
structure QueueEntry where
  addr : Addr
  size : Size
  data : List Byte
  cls : WriteClass
  region : Option RegionNo
  epochTag : EpochNo
  inFlight : Bool
  deriving DecidableEq, Repr

/-- An access at the memory port (R74). -/
structure Access where
  kind : RequestKind
  addr : Addr
  size : Size
  data : List Byte
  tag : Tag
  deriving DecidableEq, Repr

/-- The memory port (R74): IDLE while no access is in flight. -/
structure MemoryPort where
  inFlight : Option Access
  /-- The response timer in us. -/
  timer : Nat
  nextTag : Tag
  /-- The owed tags: tag t is owed when mark t is set. -/
  owed : Vector Bool 16
  deriving DecidableEq, Repr

/-- Who holds the grant of the memory port (R96); the host side is a host read or a capture. -/
inductive Holder where
  | HOST_READ
  | CAPTURE
  | QUEUE_HEAD
  | RESTORE
  deriving DecidableEq, Repr

/-- The memory port arbiter (R96, R98). -/
structure Arbiter where
  grant : Option Holder
  /-- The consecutive host-side count. -/
  hostCount : Nat
  deriving DecidableEq, Repr

/-- The epoch state (R25). -/
inductive EpochState where
  | OPEN
  | DRAINING
  | ROLLBACK
  | RECOVERY
  | STALLED
  | OFF
  deriving DecidableEq, Repr

/-- The state the controller left when it entered STALLED (R30). -/
inductive StallOrigin where
  | ROLLBACK
  | RECOVERY
  deriving DecidableEq, Repr

/-- The cause of a rollback while powered (R51). -/
inductive RollbackCause where
  | ABORT
  | TRIP
  | FAULT
  deriving DecidableEq, Repr

/-- The epoch controller (section 2.1, R26). -/
structure Controller where
  state : EpochState
  faulted : Bool
  pendingCommit : Bool
  /-- The time left on the auto-commit timer in us, none while it does not run (R33). -/
  autoTimer : Option Nat
  stallOrigin : Option StallOrigin
  cause : Option RollbackCause
  deriving DecidableEq, Repr

/-- The states of the restore engine (R50). -/
inductive RestoreState where
  | IDLE
  | WAITING
  | WRITING
  | HALTED
  | RETIRING
  deriving DecidableEq, Repr

/-- The restore engine (R50). -/
structure RestoreEngine where
  state : RestoreState
  slot : Option SlotNo
  word : Fin 8
  attempt : Nat
  restored : Nat
  deriving DecidableEq, Repr

/-- The configuration (R178). -/
structure Configuration where
  windowCode : Fin 8
  holdCode : Fin 8
  /-- The high-water level L, 1 to 256. -/
  highWater : Nat
  /-- The auto-commit interval in ms; 0 is off. -/
  autoInterval : BitVec 16
  deriving DecidableEq, Repr

/-- The kind of a region (R100). -/
inductive RegionKind where
  | OFF
  | PASS
  | GUARDED
  | READONLY
  deriving DecidableEq, Repr

/-- What a trip asks for besides refusing writes (R100). -/
inductive TripAction where
  | REFUSE
  | ROLLBACK
  deriving DecidableEq, Repr

/-- A region entry (R100). -/
structure Region where
  kind : RegionKind
  base : Line
  limit : Line
  metered : Bool
  writeLimit : Nat
  qualify : Nat
  action : TripAction
  deriving DecidableEq, Repr

/-- A staged entry with its touched mark (R105). -/
structure StagedRegion where
  entry : Region
  touched : Bool
  deriving DecidableEq, Repr

/-- Whether a region refuses host writes (R116). -/
inductive TripState where
  | CLEAR
  | TRIPPED
  deriving DecidableEq, Repr

/-- A meter record (R116). -/
structure Meter where
  count : Nat
  latch : Nat
  strikes : Nat
  trip : TripState
  deriving DecidableEq, Repr

/-- The window timer (R114). -/
structure Window where
  /-- The length of the window in progress, in ms. -/
  length : Nat
  /-- The time since it began, in us. -/
  elapsed : Nat
  deriving DecidableEq, Repr

/-- A refusal record (R131). -/
structure RefusalRecord where
  seq : BitVec 16
  uptime : BitVec 32
  kind : RequestKind
  addr : Addr
  size : Size
  reason : Reason
  region : Option RegionNo
  epoch : EpochNo
  deriving DecidableEq, Repr

/-- Which block's access failed (R137). -/
inductive FaultSource where
  | POSTED_WRITE
  | CAPTURE_READ
  | HOST_READ
  | RESTORE_WRITE
  deriving DecidableEq, Repr

/-- The fault record while it is present (R137). -/
structure FaultRecord where
  source : FaultSource
  cause : Cause
  addr : Addr
  epoch : EpochNo
  uptime : BitVec 32
  repeats : Nat
  deriving DecidableEq, Repr

/-- The report unit (R130); the log is oldest first. -/
structure ReportUnit where
  log : List RefusalRecord
  dropped : Nat
  nextSeq : BitVec 16
  fault : Option FaultRecord
  deriving DecidableEq, Repr

/-- What the part presents on ALERT# (R143). -/
inductive AlertDrive where
  | LOW
  | RELEASED
  deriving DecidableEq, Repr

/-- The event unit (R143); bit k of the flags and the enables is the event at bit k of section 11.3. -/
structure EventUnit where
  flags : BitVec 12
  enables : BitVec 12
  alert : AlertDrive
  deriving DecidableEq, Repr

/-- The supply state (R154). -/
inductive SupplyState where
  | RUN
  | FAILING
  | BACKUP
  | SETTLING
  deriving DecidableEq, Repr

/-- The settle timer (R154): it runs from 0 to 20,000 us in SETTLING. -/
inductive SettleTimer where
  | STOPPED
  | RUNNING (elapsed : Nat)
  | EXPIRED
  deriving DecidableEq, Repr

/-- The RST# line (R159): high, low and being timed, low for 1 us with the assertion on its way, low with nothing being timed (a stop
dropped its time, R164), or asserted. -/
inductive ResetLine where
  | HIGH
  | QUALIFYING
  | QUALIFIED
  | LOW
  | ASSERTED
  deriving DecidableEq, Repr

/-- The MARK line (R32): low, high since a rising edge less than 1 us ago, high for 1 us with the request on its way, or high with nothing
being timed. -/
inductive MarkLine where
  | LOW
  | QUALIFYING
  | QUALIFIED
  | HIGH
  deriving DecidableEq, Repr

/-- The link states (R168). -/
inductive LinkState where
  | IDLE
  | RECEIVING
  | RESPONDING
  | PASSED
  deriving DecidableEq, Repr

/-- The frame in progress on the management link (R168). MCS# is high exactly in IDLE. -/
structure Link where
  state : LinkState
  /-- Bits of the current byte sampled so far. -/
  bitCount : Nat
  /-- Those bits. -/
  shift : Byte
  code : Option Byte
  params : List Byte
  /-- The result byte and the data of the answer. -/
  answer : Option (List Byte)
  /-- The next answer byte to send. -/
  position : Nat
  /-- How many of its bits have been clocked. -/
  bitPosition : Nat
  /-- The bit driven on MDO, none while MDO is released (R167). -/
  mdo : Option Bool
  deriving DecidableEq, Repr

/-- Uptime (R164): whole ms, and the us of the ms in progress. -/
structure Uptime where
  ms : BitVec 32
  us : Nat
  deriving DecidableEq, Repr

/-- The whole part. -/
structure State where
  retention : Retention
  /-- The retention writes asked for and not ended, oldest first (R1). -/
  writes : List RetentionWrite
  /-- The write in progress is known to have begun: it waited behind another one, which has ended (R1). -/
  writeBegun : Bool
  /-- The request in progress, none while the host port is IDLE (R72). -/
  host : Option HostJob
  /-- The model's record of the responses given on the host port, oldest first (log 15). -/
  responses : List HostResponse
  /-- The capture in flight, none while the engine is IDLE (R17). -/
  capture : Option CaptureJob
  /-- The line index: line numbers with their slots (R9). -/
  index : List (Line × SlotNo)
  queue : List QueueEntry
  port : MemoryPort
  arbiter : Arbiter
  ctl : Controller
  restore : RestoreEngine
  cfg : Configuration
  active : Vector Region 16
  staged : Vector StagedRegion 16
  meters : Vector Meter 16
  window : Window
  report : ReportUnit
  events : EventUnit
  supply : SupplyState
  settle : SettleTimer
  rst : ResetLine
  /-- The reset is in force (R159). -/
  resetInForce : Bool
  mark : MarkLine
  link : Link
  uptime : Uptime
  /-- The model's counter of undefined values taken (log 6). -/
  free : Nat
  /-- The commands that are waiting, first in first out. -/
  pending : List Instr
  deriving DecidableEq, Repr

/-- A FREE slot (R5). -/
def freeSlot : Slot := { state := .FREE, line := 0, region := 0, seq := 0, image := none }

/-- The retention store as the initialisation write leaves it (R2, R156). -/
def initialStore : Retention :=
  { header := { state := .EMPTY, epoch := 0, boot := 0, count := 0, nextSeq := 0, cause := none },
    slots := Vector.replicate 256 freeSlot, history := [], latch := true }

/-- The default entry (R100). -/
def defaultRegion : Region :=
  { kind := .OFF, base := 0, limit := 0, metered := false, writeLimit := 1, qualify := 1, action := .REFUSE }

/-- A meter record after a restart or a replacement (R111, R116). -/
def clearMeter : Meter := { count := 0, latch := 0, strikes := 0, trip := .CLEAR }

/-- The restore engine after a restart (R50). -/
def idleRestore : RestoreEngine := { state := .IDLE, slot := none, word := 0, attempt := 1, restored := 0 }

/-- The link with no frame in progress and MCS# high (R168). -/
def idleLink : Link :=
  { state := .IDLE, bitCount := 0, shift := 0, code := none, params := [], answer := none, position := 0,
    bitPosition := 0, mdo := none }

/-- The configuration after a restart (R178). -/
def defaultConfiguration : Configuration := { windowCode := 4, holdCode := 5, highWater := 192, autoInterval := 0 }

/-- The machine right after reset: the end of the cold restart that power-up from nothing leads to (R2, R155, R161 step 5 and section 9.7;
log 1). RETENTION_LOST (bit 3) and RESTARTED (bit 2) are set (R143). -/
def State.reset : State :=
  { retention := initialStore
    writes := []
    writeBegun := false
    host := none
    responses := []
    capture := none
    index := []
    queue := []
    port := { inFlight := none, timer := 0, nextTag := 0, owed := Vector.replicate 16 false }
    arbiter := { grant := none, hostCount := 0 }
    ctl := { state := .OPEN, faulted := false, pendingCommit := false, autoTimer := none, stallOrigin := none, cause := none }
    restore := idleRestore
    cfg := defaultConfiguration
    active := Vector.replicate 16 defaultRegion
    staged := Vector.replicate 16 { entry := defaultRegion, touched := false }
    meters := Vector.replicate 16 clearMeter
    window := { length := 16, elapsed := 0 }
    report := { log := [], dropped := 0, nextSeq := 0, fault := none }
    events := { flags := 0b000000001100, enables := 0, alert := .RELEASED }
    supply := .RUN
    settle := .STOPPED
    rst := .HIGH
    resetInForce := false
    mark := .LOW
    link := idleLink
    uptime := { ms := 0, us := 0 }
    free := 0
    pending := [] }

end Sys2Proof.Machine
end

