-- ==== Sys2Proof/Machine/Operands.lean ====
section
/-! DEFINITION. How operands are read and how values are written on the link: addresses and lanes (sections 0.6.2 and 4.1),
parameter fields (R186), value codes (section 11.3), lengths given by codes. -/

namespace Sys2Proof.Machine

/-- The bytes that a size moves (R71). -/
def sizeBytes : Size → Nat
  | .one => 1
  | .two => 2
  | .four => 4

/-- The line of an address: the address divided by 32, rounded down (section 0.6.2). -/
def lineOf (addr : Addr) : Line := addr.extractLsb' 5 19

/-- The address of word w of a line (section 0.6.2, R18). -/
def wordAddr (line : Line) (w : Nat) : Addr := (line ++ (0 : BitVec 5)) + BitVec.ofNat 24 (4 * w)

/-- Check 2: the address is a multiple of the size (R79). -/
def aligned (addr : Addr) (size : Size) : Bool := addr.toNat % sizeBytes size == 0

/-- The bytes that a request moves: lanes (address mod 4) to (address mod 4 + size - 1) (R71). -/
def lanesMoved (addr : Addr) (size : Size) (data : Lanes) : List Byte :=
  (data.toList.drop (addr.toNat % 4)).take (sizeBytes size)

/-- The kind of a host request (R71). -/
def opKind : HostOp → RequestKind
  | .READ => .READ
  | .WRITE _ => .WRITE

/-- The write data of a host request, one byte per lane moved (R71). -/
def opData (addr : Addr) (size : Size) : HostOp → List Byte
  | .READ => []
  | .WRITE data => lanesMoved addr size data

/-- The hold limit of a hold code in us, none for hold without limit (R87). -/
def holdLimit (code : Fin 8) : Option Nat :=
  match code.val with
  | 0 => none
  | 1 => some 50
  | 2 => some 100
  | 3 => some 200
  | 4 => some 500
  | 5 => some 1000
  | 6 => some 2000
  | _ => some 5000

/-- The window length of a window code in ms (R114). -/
def windowLength (code : Fin 8) : Nat := 2 ^ code.val

/-- The memory response limit in us (R75). -/
def responseLimit : Nat := 200

/-- The settle time in us (R154). -/
def settleTime : Nat := 20000

/-- The ceiling of a meter's count (R117). -/
def countCeiling : Nat := 16777215

/-- A region index carried in a byte (R186). -/
def regionIndex (b : Byte) : Option RegionNo := if h : b.toNat < 16 then some ⟨b.toNat, h⟩ else none

/-- A slot number carried in a byte: every value names a slot (R24). -/
def slotIndex (b : Byte) : SlotNo := ⟨b.toNat, b.isLt⟩

/-- A line carried in three bytes (R186). -/
def lineField (x : BitVec 24) : Option Line := if x.toNat < 524288 then some (x.setWidth 19) else none

/-- A region kind by its code (section 11.3). -/
def regionKindField (b : Byte) : Option RegionKind :=
  match b.toNat with
  | 0 => some .OFF
  | 1 => some .PASS
  | 2 => some .GUARDED
  | 3 => some .READONLY
  | _ => none

/-- A trip action by its code (R186). -/
def tripActionField (b : Byte) : Option TripAction :=
  match b.toNat with
  | 0 => some .REFUSE
  | 1 => some .ROLLBACK
  | _ => none

/-- A window or hold code (R186). -/
def codeField (b : Byte) : Option (Fin 8) := if h : b.toNat < 8 then some ⟨b.toNat, h⟩ else none

/-- The entry that STAGE_REGION carries, when every check of R106 but the index check passes (R106, R186). -/
def regionFields (kind : Byte) (base limit : BitVec 24) (metered : Byte) (writeLimit : BitVec 24) (qualify action : Byte) :
    Option Region :=
  match regionKindField kind, lineField base, lineField limit, tripActionField action with
  | some k, some b, some l, some a =>
    if b.toNat ≤ l.toNat ∧ writeLimit.toNat ≠ 0 ∧ 1 ≤ qualify.toNat ∧ qualify.toNat ≤ 15 then
      some { kind := k, base := b, limit := l, metered := metered != 0, writeLimit := writeLimit.toNat,
             qualify := qualify.toNat, action := a }
    else none
  | _, _, _, _ => none

/-- The results of link commands (R175). -/
inductive LinkResult where
  | DONE
  | QUEUED
  | STATE
  | INVALID
  | UNKNOWN
  | NOT_TRIPPED
  deriving DecidableEq, Repr

/-- The code of a result (R185). -/
def resultCode : LinkResult → Byte
  | .DONE => 0x00
  | .QUEUED => 0x01
  | .STATE => 0x02
  | .INVALID => 0x03
  | .UNKNOWN => 0x04
  | .NOT_TRIPPED => 0x05

/-- The code of an epoch state (section 11.3). OFF has none in the manual and is never sent: the link takes no frames in OFF
(R25, R165). -/
def epochStateCode : EpochState → Byte
  | .OPEN => 0
  | .DRAINING => 1
  | .ROLLBACK => 2
  | .RECOVERY => 3
  | .STALLED => 4
  | .OFF => 0xFF

/-- The code of a header state (section 11.3). -/
def headerStateCode : HeaderState → Byte
  | .EMPTY => 0
  | .OPEN => 1
  | .SEALED => 2
  | .UNWINDING => 3

/-- The code of a region kind (section 11.3). -/
def regionKindCode : RegionKind → Byte
  | .OFF => 0
  | .PASS => 1
  | .GUARDED => 2
  | .READONLY => 3

/-- The code of a trip action (section 11.2). -/
def tripActionCode : TripAction → Byte
  | .REFUSE => 0
  | .ROLLBACK => 1

/-- The code of a trip state (section 11.3). -/
def tripStateCode : TripState → Byte
  | .CLEAR => 0
  | .TRIPPED => 1

/-- The code of a slot state (section 11.3). -/
def slotStateCode : SlotState → Byte
  | .FREE => 0
  | .FILLING => 1
  | .COMPLETE => 2

/-- The code of a request kind (section 11.3). -/
def requestKindCode : RequestKind → Byte
  | .READ => 0
  | .WRITE => 1

/-- The code of a refusal reason (section 11.3). POWER and RESET are never logged and have none. -/
def reasonCode : Reason → Byte
  | .ALIGN => 1
  | .PROTECT => 2
  | .TRIPPED => 3
  | .FULL => 4
  | .MEMORY => 5
  | .HOLD_TIMEOUT => 6
  | .ABORTED => 7
  | .RECOVERING => 8
  | .STALLED => 9
  | .POWER => 0xFF
  | .RESET => 0xFF

/-- The code of a fault source (section 11.3). -/
def faultSourceCode : FaultSource → Byte
  | .POSTED_WRITE => 1
  | .CAPTURE_READ => 2
  | .HOST_READ => 3
  | .RESTORE_WRITE => 4

/-- The code of a fault cause (section 11.3). -/
def causeCode : Cause → Byte
  | .ERR => 1
  | .NO_RESPONSE => 2

/-- The code of an outcome kind (section 11.3). -/
def outcomeKindCode : OutcomeKind → Byte
  | .COMMITTED => 1
  | .ABORTED => 2
  | .TRIPPED => 3
  | .FAULTED => 4
  | .RESTART => 5
  | .DISCARDED => 6

/-- The code of an unwind cause, 0 for absent (section 11.3, R187). -/
def unwindCauseCode : Option UnwindCause → Byte
  | none => 0
  | some .ABORT => 1
  | some .TRIP => 2
  | some .FAULT => 3
  | some .RESTART => 4

/-- A flag or mark byte (R187). -/
def flagByte (b : Bool) : Byte := if b then 0x01 else 0x00

/-- A size in bytes as a byte (section 11.4). -/
def sizeByte (size : Size) : Byte := BitVec.ofNat 8 (sizeBytes size)

/-- A region index of a refusal record, 0xFF for absent (R187). -/
def regionByte : Option RegionNo → Byte
  | none => 0xFF
  | some r => BitVec.ofNat 8 r.val

/-- A word of an image, most significant byte first (section 11.4); which lane that is stays free (log 7). -/
def wordBytes (w : Lanes) : List Byte := if Config.lane0MostSignificant then w.toList else w.toList.reverse

end Sys2Proof.Machine
end

