-- ==== Sys2Proof/Machine/Flags.lean ====
section
/-! DEFINITION. The event flags, their enables and the ALERT# line (08, section 11.3). -/

namespace Sys2Proof.Machine

/-- The twelve events (R143), in the order of their bits (section 11.3). -/
inductive Event where
  | COMMITTED
  | ROLLED_BACK
  | RESTARTED
  | RETENTION_LOST
  | JHIGH
  | JFULL
  | TRIP
  | MEMFAULT
  | HOLD_TIMEOUT
  | STALL
  | LOG_DROP
  | LINKERR
  deriving DecidableEq, Repr

/-- The bit of an event (section 11.3). -/
def eventBit : Event → Nat
  | .COMMITTED => 0
  | .ROLLED_BACK => 1
  | .RESTARTED => 2
  | .RETENTION_LOST => 3
  | .JHIGH => 4
  | .JFULL => 5
  | .TRIP => 6
  | .MEMFAULT => 7
  | .HOLD_TIMEOUT => 8
  | .STALL => 9
  | .LOG_DROP => 10
  | .LINKERR => 11

/-- The set that holds one event. -/
def eventMask (e : Event) : BitVec 12 := 1#12 <<< eventBit e

/-- The part runs: the supply is RUN and the reset is not in force (R159, R165). -/
def isRunning (s : State) : Bool := s.supply == .RUN && !s.resetInForce

/-- The drive of ALERT# (R151, R152): LOW exactly when the part runs and some flag and its enable are both set. -/
def alertDrive (running : Bool) (flags enables : BitVec 12) : AlertDrive :=
  if running && flags &&& enables != 0 then .LOW else .RELEASED

/-- The event unit with flags and enables in place and ALERT# driven by them (R151). -/
def withEvents (flags enables : BitVec 12) (s : State) : State :=
  { s with events := { flags := flags, enables := enables, alert := alertDrive (isRunning s) flags enables } }

/-- A cause sets its flag, whatever its enable (R144), and ALERT# follows (R151). -/
def setEvent (e : Event) (s : State) : State := withEvents (s.events.flags ||| eventMask e) s.events.enables s

end Sys2Proof.Machine
end

