-- ==== Sys2Proof/Machine/Journal.lean ====
section
/-! DEFINITION. The journal: its queries (R6, R8) and its retention writes (section 1.5, R39, R44, R45, R161), each one change of
the retention store. -/

namespace Sys2Proof.Machine

/-- The open epoch number E+1, modulo 2^32 (R4). -/
def openEpoch (r : Retention) : EpochNo := r.header.epoch + 1

/-- The slots, with slot k replaced. -/
def putSlot (r : Retention) (k : SlotNo) (slot : Slot) : Retention := { r with slots := r.slots.set k.val slot k.isLt }

/-- A number as a slot number, none from 256 on. -/
def slotOfNat (n : Nat) : Option SlotNo := if h : n < 256 then some ⟨n, h⟩ else none

/-- The lowest-numbered FREE slot (R6). -/
def lowestFree (r : Retention) : Option SlotNo :=
  (r.slots.toList.findIdx? (fun slot => slot.state == .FREE)).bind slotOfNat

/-- Of the slots from number n on, the non-FREE one with the highest capture sequence, unless `best` has a higher one. -/
def newestFrom : List Slot → Nat → Option (Nat × BitVec 8) → Option (Nat × BitVec 8)
  | [], _, best => best
  | slot :: rest, n, best =>
    newestFrom rest (n + 1) <|
      if slot.state == .FREE then best
      else match best with
        | none => some (n, slot.seq)
        | some (m, seq) => if seq.toNat < slot.seq.toNat then some (n, slot.seq) else some (m, seq)

/-- The newest slot: none when the count is 0, else the non-FREE slot with the highest sequence (R8). -/
def newestSlot (r : Retention) : Option SlotNo :=
  if r.header.count = 0 then none else (newestFrom r.slots.toList 0 none).bind (fun p => slotOfNat p.1)

/-- How many slots are COMPLETE (R39). -/
def completeCount (r : Retention) : Nat := r.slots.toList.countP (fun slot => slot.state == .COMPLETE)

/-- An append to the outcome history keeps the 8 newest records (R45). -/
def appendOutcome (o : OutcomeRecord) (history : List OutcomeRecord) : List OutcomeRecord := (o :: history).take 8

/-- The allocation write (R6, R10). -/
def allocationWrite (line : Line) (region : RegionNo) (r : Retention) : Retention :=
  match lowestFree r with
  | none => r
  | some k =>
    let slot : Slot := { state := .FILLING, line := line, region := region, seq := r.header.nextSeq, image := none }
    { putSlot r k slot with
      header := { r.header with
        state := if r.header.state = .EMPTY then .OPEN else r.header.state
        count := r.header.count + 1
        nextSeq := r.header.nextSeq + 1 } }

/-- The completion write (R11). -/
def completionWrite (k : SlotNo) (image : Image) (r : Retention) : Retention :=
  putSlot r k { r.slots.get k with state := .COMPLETE, image := some image }

/-- The release write (R12). -/
def releaseWrite (k : SlotNo) (r : Retention) : Retention :=
  { putSlot r k freeSlot with
    header := { r.header with count := r.header.count - 1, nextSeq := r.header.nextSeq - 1 } }

/-- The seal write with its COMMITTED outcome (R13, R39). -/
def sealWrite (uptime : BitVec 32) (r : Retention) : Retention :=
  { r with
    header := { r.header with state := .SEALED, epoch := openEpoch r }
    history := appendOutcome
      { epoch := openEpoch r, kind := .COMMITTED, entries := completeCount r, boot := r.header.boot, uptime := uptime } r.history }

/-- Every slot FREE, and the header EMPTY with count and next sequence 0 and no unwind cause (R13, R15). -/
def emptyJournal (r : Retention) : Retention :=
  { r with
    header := { r.header with state := .EMPTY, count := 0, nextSeq := 0, cause := none }
    slots := Vector.replicate 256 freeSlot }

/-- The clear write (R13, R41). -/
def clearWrite (r : Retention) : Retention := emptyJournal r

/-- The unwinding mark (R14). -/
def unwindingMark (cause : UnwindCause) (r : Retention) : Retention :=
  { r with header := { r.header with state := .UNWINDING, cause := some cause } }

/-- The outcome record that ends the open epoch: its number is E+1 (R44). -/
def endingOutcome (kind : OutcomeKind) (entries : Nat) (uptime : BitVec 32) (r : Retention) : OutcomeRecord :=
  { epoch := openEpoch r, kind := kind, entries := entries, boot := r.header.boot, uptime := uptime }

/-- The header at the end of an unwind, with the outcome appended (R15). -/
def unwindEnded (o : OutcomeRecord) (r : Retention) : Retention :=
  { r with
    header := { r.header with state := .EMPTY, nextSeq := 0, cause := none }
    history := appendOutcome o r.history }

/-- The retire write (R15): the newest slot leaves; the last one also ends the unwind with its outcome. -/
def retireWrite (kind : OutcomeKind) (entries : Nat) (uptime : BitVec 32) (r : Retention) : Retention :=
  match newestSlot r with
  | none => r
  | some k =>
    let freed : Retention := { putSlot r k freeSlot with header := { r.header with count := r.header.count - 1 } }
    if r.header.count = 1 then unwindEnded (endingOutcome kind entries uptime r) freed else freed

/-- The finish write (R15): the changes of the last retire, without changing any slot. -/
def finishWrite (kind : OutcomeKind) (entries : Nat) (uptime : BitVec 32) (r : Retention) : Retention :=
  unwindEnded (endingOutcome kind entries uptime r) r

/-- The discard write (R15, R70): the DISCARDED outcome counts the entries before the write. -/
def discardWrite (uptime : BitVec 32) (r : Retention) : Retention :=
  { emptyJournal r with history := appendOutcome (endingOutcome .DISCARDED r.header.count uptime r) r.history }

/-- The warm restart's write: B increments (R2). -/
def bootCountWrite (r : Retention) : Retention := { r with header := { r.header with boot := r.header.boot + 1 } }

/-- The cold restart's write: the whole store takes its first values and the latch is set (R2, R156). -/
def initialisationWrite (_r : Retention) : Retention := initialStore

end Sys2Proof.Machine
end

