-- ==== Sys2Proof/Machine/Ops.lean ====
section
/-! DEFINITION. The shared operations of the blocks: the host port's answer, the report unit, the line index, the posted write
queue, the meter count, requests for retention writes, the region lookup. -/

namespace Sys2Proof.Machine

/-- The vector of the values of a function, one per number. -/
def tabulate {α : Type} {n : Nat} (f : Fin n → α) : Vector α n := ⟨(List.ofFn f).toArray, by simp⟩

/-- The store after one retention write (R1). -/
def store (f : Retention → Retention) (s : State) : State := { s with retention := f s.retention }

/-- A block asks for a retention write; it follows the writes already asked for (R1). -/
def askWrite (w : RetentionWrite) (s : State) : State := { s with writes := s.writes ++ [w] }

/-- The retention write in progress ends: it is the oldest one asked for, and one that waits behind it begins (R1). -/
def endWrite (s : State) : State := { s with writes := s.writes.tail, writeBegun := !s.writes.tail.isEmpty }

/-- The host port answers its request in progress and returns to IDLE (R72); with no request it answers nothing. -/
def answerHost (status : Status) (data : List Byte) (reason : Option Reason) (s : State) : State :=
  match s.host with
  | none => s
  | some job =>
    { s with
      host := none
      responses := s.responses ++ [{ status := status, data := data, tag := job.tag, reason := reason }] }

/-- The report unit takes a refusal (R132, R133): it numbers it, and logs it or, with 16 records in the log, discards it. -/
def logRefusal (kind : RequestKind) (addr : Addr) (size : Size) (reason : Reason) (region : Option RegionNo) (s : State) : State :=
  let record : RefusalRecord :=
    { seq := s.report.nextSeq, uptime := s.uptime.ms, kind := kind, addr := addr, size := size, reason := reason,
      region := region, epoch := openEpoch s.retention }
  if s.report.log.length < 16 then
    { s with report := { s.report with log := s.report.log ++ [record], nextSeq := s.report.nextSeq + 1 } }
  else
    setEvent .LOG_DROP
      { s with report := { s.report with dropped := min (s.report.dropped + 1) 255, nextSeq := s.report.nextSeq + 1 } }

/-- The event that a refusal sets beside its record (R134). -/
def reasonEvent (reason : Reason) (s : State) : State :=
  match reason with
  | .FULL => setEvent .JFULL s
  | .HOLD_TIMEOUT => setEvent .HOLD_TIMEOUT s
  | _ => s

/-- Admission refuses the request in progress: ERR to the host, and the refusal to the report unit (R86). -/
def refuseHost (reason : Reason) (region : Option RegionNo) (s : State) : State :=
  match s.host with
  | none => s
  | some job =>
    reasonEvent reason (logRefusal (opKind job.op) job.addr job.size reason region (answerHost .ERR [] (some reason) s))

/-- The report unit takes a fault (R138). -/
def recordFault (source : FaultSource) (cause : Cause) (addr : Addr) (epoch : EpochNo) (s : State) : State :=
  setEvent .MEMFAULT <|
    match s.report.fault with
    | none =>
      let first : FaultRecord :=
        { source := source, cause := cause, addr := addr, epoch := epoch, uptime := s.uptime.ms, repeats := 0 }
      { s with report := { s.report with fault := some first } }
    | some f =>
      let counted : FaultRecord := { f with repeats := min (f.repeats + 1) 255 }
      { s with report := { s.report with fault := some counted } }

/-- The lookup in the line index: the slot of a line, none for no entry (R9). -/
def indexLookup (s : State) (line : Line) : Option SlotNo := (s.index.find? (fun e => e.1 == line)).map (·.2)

/-- The line index gains an entry (R10). -/
def indexGain (line : Line) (k : SlotNo) (s : State) : State := { s with index := s.index ++ [(line, k)] }

/-- The line index loses the entries of a slot that becomes FREE (R9). -/
def indexLose (k : SlotNo) (s : State) : State := { s with index := s.index.filter (fun e => e.2 != k) }

/-- A region entry covers a line and is not OFF (R102). -/
def regionCovers (line : Line) (r : Region) : Bool :=
  r.kind != .OFF && r.base.toNat ≤ line.toNat && line.toNat ≤ r.limit.toNat

/-- A number as a region index. -/
def regionOfNat (n : Nat) : Option RegionNo := if h : n < 16 then some ⟨n, h⟩ else none

/-- The region lookup: the lowest-numbered active entry that is not OFF and covers the line (R102). -/
def governingRegion (s : State) (line : Line) : Option RegionNo :=
  (s.active.toList.findIdx? (regionCovers line)).bind regionOfNat

/-- A region is metered when its active entry is not OFF and its metered flag is set (R100). -/
def isMetered (r : Region) : Bool := r.kind != .OFF && r.metered

/-- A meter record, replaced. -/
def putMeter (i : RegionNo) (m : Meter) (s : State) : State := { s with meters := s.meters.set i.val m i.isLt }

/-- The meter unit is told of a write's entry into the queue (R117). -/
def meterCount (region : Option RegionNo) (size : Size) (s : State) : State :=
  match region with
  | none => s
  | some i =>
    if isMetered (s.active.get i) then
      let m := s.meters.get i
      putMeter i { m with count := min (m.count + sizeBytes size) countCeiling } s
    else s

/-- A write enters the posted write queue; the host is answered OK and the meter unit told at the same event (R92). -/
def postWrite (addr : Addr) (size : Size) (data : List Byte) (cls : WriteClass) (region : Option RegionNo) (s : State) : State :=
  let entry : QueueEntry :=
    { addr := addr, size := size, data := data, cls := cls, region := region, epochTag := openEpoch s.retention, inFlight := false }
  meterCount region size (answerHost .OK [] none { s with queue := s.queue ++ [entry] })

/-- Some queue entry names an address in the line (R83). -/
def lineQueued (s : State) (line : Line) : Bool := s.queue.any (fun e => lineOf e.addr == line)

/-- The grant of the memory port is released (R96). -/
def releasePort (s : State) : State := { s with arbiter := { s.arbiter with grant := none } }

/-- The queue is empty and the capture engine IDLE, both at once (R37, R56). -/
def isDrained (s : State) : Bool := s.queue.isEmpty && s.capture.isNone

end Sys2Proof.Machine
end

