-- ==== Sys2Proof/Machine/Admission.lean ====
section
/-! DEFINITION. Admission: the six checks (04 section 4.4), the guarded-write decision (R16), holds and re-evaluation (R87, R88). -/

namespace Sys2Proof.Machine

/-- What an evaluation decides (R77). -/
inductive Verdict where
  /-- A check refuses; the region is the one found by the most recent lookup (R86). -/
  | REFUSE (reason : Reason) (region : Option RegionNo)
  /-- Check 1 finds the part stopped: ERR, not logged (R78). -/
  | UNLOGGED
  /-- Check 5 holds (R82). -/
  | HOLD (region : Option RegionNo)
  /-- Check 6 sends a read on its way (R83). -/
  | READ (region : Option RegionNo)
  /-- Check 6 sends a PASS write to the queue (R85). -/
  | POST (region : Option RegionNo)
  /-- Check 6 asks the journal about a GUARDED write (R85). -/
  | GUARD (region : RegionNo)
  deriving DecidableEq, Repr

/-- The answers of the guarded-write decision (R16). -/
inductive GuardAnswer where
  | PROCEED
  | FULL
  | CAPTURE
  deriving DecidableEq, Repr

/-- The guarded-write decision: the index before the count (R16). The index's slot is COMPLETE whenever the decision is asked
for, since one capture runs at a time (section 1.7). -/
def guardedWriteDecision (s : State) (line : Line) : GuardAnswer :=
  match indexLookup s line with
  | some _ => .PROCEED
  | none => if s.retention.header.count < 256 then .CAPTURE else .FULL

/-- Check 5 (R82): a WRITE in DRAINING or ROLLBACK, a WRITE in OPEN with 8 entries in the queue, a READ in ROLLBACK. -/
def isHeldAt (s : State) (kind : RequestKind) : Bool :=
  match s.ctl.state, kind with
  | .ROLLBACK, _ => true
  | .DRAINING, .WRITE => true
  | .OPEN, .WRITE => s.queue.length ≥ 8
  | _, _ => false

/-- Checks 4 to 6 for a request whose lookup found the region (R81, R82, R83, R85). -/
def evaluateLookedUp (s : State) (kind : RequestKind) (region : Option RegionNo) : Verdict :=
  let entry := region.map (fun i => s.active.get i)
  let tripped := region.any (fun i => (s.meters.get i).trip == .TRIPPED)
  if kind = .WRITE ∧ entry.any (fun r => r.kind == .READONLY) then .REFUSE .PROTECT region
  else if kind = .WRITE ∧ tripped then .REFUSE .TRIPPED region
  else if isHeldAt s kind then .HOLD region
  else match kind with
    | .READ => .READ region
    | .WRITE =>
      match region with
      | some i => if (s.active.get i).kind = .GUARDED then .GUARD i else .POST region
      | none => .POST region

/-- The evaluation of a request from check 1 (R77). -/
def evaluate (s : State) (job : HostJob) : Verdict :=
  match s.ctl.state with
  | .OFF => .UNLOGGED
  | .RECOVERY => .REFUSE .RECOVERING job.region
  | .STALLED => .REFUSE .STALLED job.region
  | .OPEN | .DRAINING | .ROLLBACK =>
    if aligned job.addr job.size then evaluateLookedUp s (opKind job.op) (governingRegion s (lineOf job.addr))
    else .REFUSE .ALIGN job.region

/-- The reason of the answers that are not logged: POWER in a supply episode, RESET while the reset is in force (R73, R159). -/
def stopReason (s : State) : Reason := if s.supply = .RUN then .RESET else .POWER

/-- The request in progress moves to a stage, with the region its lookup found. -/
def moveHost (job : HostJob) (stage : Stage) (region : Option RegionNo) (s : State) : State :=
  { s with host := some { job with stage := stage, region := region } }

/-- The capture engine starts on a guarded write: it asks for the allocation write and the request enters CAPTURING (R18, R85). -/
def startCapture (job : HostJob) (region : RegionNo) (s : State) : State :=
  let record : CaptureJob :=
    { stage := .ALLOCATING, slot := (lowestFree s.retention).getD 0, line := lineOf job.addr, region := region,
      addr := job.addr, size := job.size, data := opData job.addr job.size job.op, words := [], failure := none }
  askWrite .ALLOCATION (moveHost job .CAPTURING (some region) { s with capture := some record })

/-- A GUARDED write meets the guarded-write decision (R85). -/
def guardHost (job : HostJob) (region : RegionNo) (s : State) : State :=
  match guardedWriteDecision s (lineOf job.addr) with
  | .PROCEED => postWrite job.addr job.size (opData job.addr job.size job.op) .GUARDED (some region) s
  | .FULL => refuseHost .FULL (some region) s
  | .CAPTURE => startCapture job region s

/-- A verdict takes effect on the request in progress, whose hold, should check 5 hold it, has the deadline given (R77, R87). -/
def applyVerdict (job : HostJob) (deadline : Option Nat) (s : State) : Verdict → State
  | .REFUSE reason region => refuseHost reason region s
  | .UNLOGGED => answerHost .ERR [] (some (stopReason s)) s
  | .HOLD region => moveHost job (.HELD deadline) region s
  | .READ region => moveHost job (if lineQueued s (lineOf job.addr) then .HAZARD else .PORT_WAIT) region s
  | .POST region => postWrite job.addr job.size (opData job.addr job.size job.op) .PASS region s
  | .GUARD region => guardHost job region s

/-- A held request is evaluated from check 1; held again, it keeps its deadline (R87, R88). -/
def reevaluate (s : State) : State :=
  match s.host with
  | none => s
  | some job =>
    match job.stage with
    | .HELD deadline => applyVerdict job deadline s (evaluate s job)
    | _ => s

/-- A request that arrives is evaluated at once; a hold that begins takes its deadline from the code in force (R72, R77, R87). -/
def arriveHost (op : HostOp) (addr : Addr) (size : Size) (tag : Tag) (s : State) : State :=
  let job : HostJob :=
    { op := op, addr := addr, size := size, tag := tag, stage := .HELD (holdLimit s.cfg.holdCode), region := none }
  reevaluate { s with host := some job }

end Sys2Proof.Machine
end

