-- ==== Sys2Proof/Machine/Epoch.lean ====
section
/-! DEFINITION. The epoch controller (02, 03): changes of state, commit requests, drains, rollbacks, the entry to OPEN, and the
restore engine's choice of a slot (R58). -/

namespace Sys2Proof.Machine

/-- The epoch state changes, and a held request is re-evaluated (R88). -/
def changeState (st : EpochState) (s : State) : State := reevaluate { s with ctl := { s.ctl with state := st } }

/-- Entry to ROLLBACK: the cause is recorded, the auto-commit timer stops and admission begins to hold (R51). -/
def enterRollback (cause : RollbackCause) (s : State) : State :=
  changeState .ROLLBACK { s with ctl := { s.ctl with cause := some cause, autoTimer := none } }

/-- The drain of a rollback completes: the controller asks for the unwinding mark (R56, R57). -/
def rollbackDrainCheck (s : State) : State :=
  if s.ctl.state = .ROLLBACK ∧ isDrained s = true ∧ s.retention.header.state ≠ .UNWINDING ∧ s.writes = [] then askWrite .MARK s
  else s

/-- The fault check: a faulted epoch turns into a FAULT rollback, another asks for its seal (R38, R39, R55). -/
def faultCheck (s : State) : State :=
  if s.ctl.faulted then rollbackDrainCheck (enterRollback .FAULT s) else askWrite .SEAL s

/-- The drain of a commit completes (R37). -/
def commitDrainCheck (s : State) : State :=
  if s.ctl.state = .DRAINING ∧ isDrained s = true ∧ s.retention.header.state ≠ .SEALED ∧ s.writes = [] then faultCheck s
  else s

/-- The controller checks whether a drain has completed, after a queue removal or a return of the capture engine to IDLE (R37,
R56, R93). -/
def drainCheck (s : State) : State :=
  match s.ctl.state with
  | .DRAINING => commitDrainCheck s
  | .ROLLBACK => rollbackDrainCheck s
  | _ => s

/-- A commit request is taken in OPEN (R36). -/
def takeCommit (s : State) : State :=
  commitDrainCheck (changeState .DRAINING { s with ctl := { s.ctl with autoTimer := none } })

/-- A commit request by the epoch state in which it arrives; the result is the link's (R29, R31). -/
def commitRequest (s : State) : State × LinkResult :=
  match s.ctl.state with
  | .OPEN => (takeCommit s, .DONE)
  | .DRAINING | .ROLLBACK => ({ s with ctl := { s.ctl with pendingCommit := true } }, .QUEUED)
  | .RECOVERY | .STALLED | .OFF => (s, .STATE)

/-- The full auto-commit interval in us, none for interval 0 (R33). -/
def fullInterval (interval : BitVec 16) : Option Nat := if interval = 0 then none else some (interval.toNat * 1000)

/-- Entry to OPEN, in the order of R27. -/
def enterOpen (s : State) : State :=
  let opened := changeState .OPEN
    { s with ctl := { s.ctl with faulted := false, stallOrigin := none, autoTimer := fullInterval s.cfg.autoInterval } }
  if opened.ctl.pendingCommit then takeCommit { opened with ctl := { opened.ctl with pendingCommit := false } }
  else opened

/-- The restore engine asks for its next slot: a COMPLETE slot asks for the port, a FILLING slot for a retire, none for the finish
(R58). -/
def selectSlot (s : State) : State :=
  match newestSlot s.retention with
  | none => askWrite .FINISH { s with restore := { s.restore with state := .RETIRING, slot := none, word := 0, attempt := 1 } }
  | some k =>
    if (s.retention.slots.get k).state = .COMPLETE then
      { s with restore := { s.restore with state := .WAITING, slot := some k, word := 0, attempt := 1 } }
    else
      askWrite .RETIRE { s with restore := { s.restore with state := .RETIRING, slot := some k, word := 0, attempt := 1 } }

/-- The controller starts the restore engine with restored count 0 (R50, R57, R64). -/
def startUnwind (s : State) : State := selectSlot { s with restore := { s.restore with restored := 0 } }

/-- The outcome kind of an unwind: RESTART in a recovery, else by the header's cause (R61, R65). -/
def unwindKind (s : State) : OutcomeKind :=
  if s.ctl.state = .RECOVERY then .RESTART
  else match s.retention.header.cause with
    | some .ABORT => .ABORTED
    | some .TRIP => .TRIPPED
    | some .FAULT => .FAULTED
    | some .RESTART => .RESTART
    | none => .RESTART

/-- The event that marks the end of an unwind or a recovery (R61, R65). -/
def unwindEvent (s : State) : Event := if s.ctl.state = .RECOVERY then .RESTARTED else .ROLLED_BACK

/-- The restore engine returns to IDLE with its cursor absent (R50, R70). -/
def restoreToIdle (s : State) : State :=
  { s with restore := { s.restore with state := .IDLE, slot := none, word := 0, attempt := 1 } }

/-- An unwind is over: the restore engine is IDLE, the event is set, the state becomes OPEN (R61, R65). -/
def unwindOver (s : State) : State := enterOpen (setEvent (unwindEvent s) (restoreToIdle s))

/-- The origin of a stall, from the state being left (R30, R67). -/
def stallOriginOf : EpochState → StallOrigin
  | .RECOVERY => .RECOVERY
  | _ => .ROLLBACK

/-- The state that a stall origin names (R69); a stall always records one (R30), so an absent origin is never met. -/
def stateOfOrigin : Option StallOrigin → EpochState
  | some .RECOVERY => .RECOVERY
  | _ => .ROLLBACK

/-- The address of the word at the restore cursor (R59). -/
def cursorAddr (s : State) : Addr :=
  match s.restore.slot with
  | none => 0
  | some k => wordAddr (s.retention.slots.get k).line s.restore.word.val

/-- The third failed attempt on a restore word: STALLED, with all that R67 gathers. -/
def enterStalled (cause : Cause) (s : State) : State :=
  let faulted := recordFault .RESTORE_WRITE cause (cursorAddr s) (openEpoch s.retention) s
  let halted := releasePort
    { faulted with
      restore := { faulted.restore with state := .HALTED }
      ctl := { faulted.ctl with stallOrigin := some (stallOriginOf faulted.ctl.state) } }
  changeState .STALLED (setEvent .STALL halted)

/-- The capture engine takes an abandon order, by its state (R20). A word read is outstanding exactly while a READING engine holds
the grant (R17). -/
def abandonCapture (s : State) : State :=
  match s.capture with
  | none => s
  | some job =>
    match job.stage with
    | .ALLOCATING | .WAITING => askWrite .RELEASE { s with capture := some { job with stage := .ABANDONING } }
    | .READING =>
      if s.arbiter.grant = some .CAPTURE then askWrite .RELEASE { s with capture := some { job with stage := .ABANDONING } } else s
    | .ABANDONING => s

end Sys2Proof.Machine
end

