-- ==== Sys2Proof/Machine/Port.lean ====
section
/-! DEFINITION. The memory port and its arbiter (04 sections 4.3 and 4.7), and what each grant holder does with a result (R18,
R19, R20, R59, R60, R84, R93, R94). -/

namespace Sys2Proof.Machine

/-- The result of an access, as the port hands it to the grant holder (section 4.3). -/
inductive PortResult where
  | OK (data : Lanes)
  | FAILED (cause : Cause)
  deriving DecidableEq, Repr

/-- The host side waits: a read in PORT_WAIT (R96). -/
def hostReadWaits (s : State) : Bool := s.host.any (fun job => job.stage == .PORT_WAIT)

/-- The host side waits: a capture in WAITING (R96). -/
def captureWaits (s : State) : Bool := s.capture.any (fun job => job.stage == .WAITING)

/-- The queue head waits: the queue has a head that is not in flight (R96). -/
def headWaits (s : State) : Bool := s.queue.head?.any (fun e => !e.inFlight)

/-- The arbiter's decision at a free port (R97). -/
def chooseHolder (s : State) : Option Holder :=
  if s.arbiter.hostCount = 4 ∧ headWaits s = true then some .QUEUE_HEAD
  else if captureWaits s then some .CAPTURE
  else if hostReadWaits s then some .HOST_READ
  else if headWaits s then some .QUEUE_HEAD
  else if s.restore.state = .WAITING then some .RESTORE
  else none

/-- The consecutive host-side count after a grant (R98). -/
def countAfterGrant (s : State) : Holder → Nat
  | .HOST_READ | .CAPTURE => if s.queue.isEmpty then 0 else s.arbiter.hostCount + 1
  | .QUEUE_HEAD | .RESTORE => 0

/-- The requester that is granted moves on: its access is about to be issued (R18, R59, R84, R93). -/
def startHolder (h : Holder) (s : State) : State :=
  match h with
  | .HOST_READ => { s with host := s.host.map (fun job => { job with stage := .AT_MEMORY }) }
  | .CAPTURE => { s with capture := s.capture.map (fun job => { job with stage := .READING }) }
  | .QUEUE_HEAD =>
    match s.queue with
    | [] => s
    | e :: rest => { s with queue := { e with inFlight := true } :: rest }
  | .RESTORE => { s with restore := { s.restore with state := .WRITING } }

/-- The arbiter grants the port (R97, R98). -/
def grantPort (h : Holder) (s : State) : State :=
  startHolder h { s with arbiter := { grant := some h, hostCount := countAfterGrant s h } }

/-- An access before the port has chosen its tag (R74). -/
structure AccessRequest where
  kind : RequestKind
  addr : Addr
  size : Size
  data : List Byte
  deriving DecidableEq, Repr

/-- The access that the grant holder asks for (R74): a host read keeps address and size, a posted write its entry's, a capture reads the
next word of its line (R18), the restore engine writes the word at its cursor (R59). -/
def holderAccess (h : Holder) (s : State) : Option AccessRequest :=
  match h with
  | .HOST_READ => s.host.map (fun job => { kind := .READ, addr := job.addr, size := job.size, data := [] })
  | .CAPTURE =>
    s.capture.map (fun job => { kind := .READ, addr := wordAddr job.line job.words.length, size := .four, data := [] })
  | .QUEUE_HEAD => s.queue.head?.map (fun e => { kind := .WRITE, addr := e.addr, size := e.size, data := e.data })
  | .RESTORE =>
    s.restore.slot.bind fun k =>
      (s.retention.slots.get k).image.map fun image =>
        { kind := .WRITE, addr := cursorAddr s, size := .four, data := (image.get s.restore.word).toList }

/-- The first of n tags from `tag` on, in the order 0, 1, ..., 15, 0, ..., that is not owed (R74). -/
def firstTag (owed : Vector Bool 16) : Nat → Tag → Option Tag
  | 0, _ => none
  | n + 1, tag => if owed.get tag.toFin then firstTag owed n (tag + 1) else some tag

/-- The port issues an access with a tag that is not owed and starts its response timer; none with all 16 tags owed (R74). -/
def issueAccess (a : AccessRequest) (s : State) : Option State :=
  (firstTag s.port.owed 16 s.port.nextTag).map fun tag =>
    { s with port := { s.port with
        inFlight := some { kind := a.kind, addr := a.addr, size := a.size, data := a.data, tag := tag }
        timer := 0
        nextTag := tag + 1 } }

/-- A read in a hazard wait asks for the port when no queued entry names its line any more (R83). -/
def endHazard (s : State) : State :=
  match s.host with
  | some job => if job.stage = .HAZARD ∧ lineQueued s (lineOf job.addr) = false then moveHost job .PORT_WAIT job.region s else s
  | none => s

/-- A queue entry whose write failed: a POSTED_WRITE fault and, for class GUARDED, the faulted flag (R28, R94). -/
def failedPost (cause : Cause) (e : QueueEntry) (s : State) : State :=
  let recorded := recordFault .POSTED_WRITE cause e.addr e.epochTag s
  if e.cls = .GUARDED then { recorded with ctl := { recorded.ctl with faulted := true } } else recorded

/-- The head leaves the queue at its result, and the removal is handed on (R93). -/
def headResult (r : PortResult) (s : State) : State :=
  match s.queue with
  | [] => releasePort s
  | e :: rest =>
    let removed := releasePort { s with queue := rest }
    let reported := match r with
      | .OK _ => removed
      | .FAILED cause => failedPost cause e removed
    drainCheck (endHazard (reevaluate reported))

/-- A host read ends with its result (R84). -/
def hostReadResult (r : PortResult) (s : State) : State :=
  let freed := releasePort s
  match freed.host with
  | none => freed
  | some job =>
    match r with
    | .OK data => answerHost .OK (lanesMoved job.addr job.size data) none freed
    | .FAILED cause =>
      recordFault .HOST_READ cause job.addr (openEpoch s.retention) (refuseHost .MEMORY job.region freed)

/-- The outstanding read of an abandoned capture ends: data and status are discarded; the engine is IDLE once its release write has ended
too (R20). -/
def abandonedReadEnds (s : State) : State :=
  let freed := releasePort s
  if s.writes.contains .RELEASE then freed else drainCheck { freed with capture := none }

/-- A capture read ends (R18, R19, R20). -/
def captureResult (r : PortResult) (s : State) : State :=
  match s.capture with
  | none => releasePort s
  | some job =>
    match job.stage with
    | .READING =>
      match r with
      | .OK data =>
        let stored := { s with capture := some { job with words := job.words ++ [data] } }
        if job.words.length + 1 ≥ 8 then askWrite .COMPLETION (releasePort stored) else stored
      | .FAILED cause => askWrite .RELEASE (releasePort { s with capture := some { job with failure := some cause } })
    | .ABANDONING => abandonedReadEnds s
    | .ALLOCATING | .WAITING => releasePort s

/-- A restore word write ends (R59, R60, R67). With the engine no longer WRITING, its unwind has ended by a discard while the word was in
flight, which RETRY_RESTORE had begun with the discard write pending: R70 gives no rule for the word then; the access has run on with the
grant kept, its result is dropped, and the port is released (log 13). -/
def restoreResult (r : PortResult) (s : State) : State :=
  if s.restore.state ≠ .WRITING then releasePort s
  else
    match r with
    | .OK _ =>
      if s.restore.word = 7 then
        askWrite .RETIRE <| releasePort
          { s with restore := { s.restore with state := .RETIRING, word := 0, attempt := 1, restored := s.restore.restored + 1 } }
      else { s with restore := { s.restore with word := s.restore.word + 1, attempt := 1 } }
    | .FAILED cause =>
      if s.restore.attempt < 3 then { s with restore := { s.restore with attempt := s.restore.attempt + 1 } }
      else enterStalled cause s

/-- The port hands a result to the grant holder. -/
def holderResult (h : Holder) (r : PortResult) (s : State) : State :=
  match h with
  | .HOST_READ => hostReadResult r s
  | .CAPTURE => captureResult r s
  | .QUEUE_HEAD => headResult r s
  | .RESTORE => restoreResult r s

/-- The port at rest, as the arbiter and the port leave it within the event: a free port is granted while a requester waits (R97), and the
holder's next access is issued, or fails at once with every tag owed (R74). Each round either issues, grants or fails one access; `fuel`
bounds the rounds of one event (log 20). -/
def servePort : Nat → State → State
  | 0, s => s
  | fuel + 1, s =>
    if s.port.inFlight.isSome then s
    else
      match s.arbiter.grant with
      | none =>
        match chooseHolder s with
        | none => s
        | some h => servePort fuel (grantPort h s)
      | some h =>
        match holderAccess h s with
        | none => servePort fuel (releasePort s)
        | some a =>
          match issueAccess a s with
          | some issued => issued
          | none => servePort fuel (holderResult h (.FAILED .NO_RESPONSE) s)

/-- The arbiter and the port after an event (R97): they act only while the part runs (R99). -/
def arbitrate (s : State) : State := if isRunning s then servePort 64 s else s

/-- The access in flight ends with a result: the port is IDLE, and the grant holder takes the result (R75). -/
def endAccess (r : PortResult) (s : State) : State :=
  let idle := { s with port := { s.port with inFlight := none, timer := 0 } }
  match s.arbiter.grant with
  | none => idle
  | some h => holderResult h r idle

/-- The marks of the owed tags, with one tag marked or not (R75). -/
def markOwed (owed : Vector Bool 16) (tag : Tag) (mark : Bool) : Vector Bool 16 := owed.set tag.toNat mark tag.isLt

/-- A response from memory arrives (R75). -/
def takeResponse (tag : Tag) (answer : MemoryAnswer) (s : State) : State :=
  let result : PortResult := match answer with
    | .OK data => .OK data
    | .ERR => .FAILED .ERR
  if s.port.inFlight.any (fun a => a.tag == tag) then arbitrate (endAccess result s)
  else { s with port := { s.port with owed := markOwed s.port.owed tag false } }

/-- The response timer reaches the limit (R75). With no access in flight, or with one issued since, whose timer has not reached it, the
limit finds the port no longer waiting on the access it was for. -/
def takeResponseLimit (s : State) : State :=
  match s.port.inFlight with
  | none => s
  | some a =>
    if s.port.timer < responseLimit then s
    else arbitrate (endAccess (.FAILED .NO_RESPONSE) { s with port := { s.port with owed := markOwed s.port.owed a.tag true } })

end Sys2Proof.Machine
end

