-- ==== Sys2Proof/Machine/HostPath.lean ====
section
/-! DEFINITION. The meanings of the commands on the write path: host requests, memory's responses, the hold deadline (04). -/

namespace Sys2Proof.Machine

/-- An event's outcome: no event of this part stops it. -/
abbrev Result := Host.Outcome State Fault Refusal

/-- A request at a host port that is powered (R72, R73): while the part is stopped it is answered ERR at once and not logged; in
BUSY it is ignored; in IDLE it is taken and evaluated. -/
def hostRequest (op : HostOp) (addr : Addr) (size : Size) (tag : Tag) (s : State) : State :=
  if isRunning s = false then
    { s with responses := s.responses ++ [{ status := .ERR, data := [], tag := tag, reason := some (stopReason s) }] }
  else if s.host.isSome then s
  else arbitrate (arriveHost op addr size tag s)

/-- HOST_REQUEST (R72, R73, R158: in BACKUP no request is taken). -/
def execHostRequest (op : HostOp) (addr : Addr) (size : Size) (tag : Tag) (s : State) : Result :=
  .next (if s.supply = .BACKUP then s else hostRequest op addr size tag s)

/-- MEMORY_RESPONSE (R75, R76); in BACKUP the port is unpowered (R158). -/
def execMemoryResponse (tag : Tag) (answer : MemoryAnswer) (s : State) : Result :=
  .next (if s.supply = .BACKUP then s else takeResponse tag answer s)

/-- MEMORY_RESPONSE_LIMIT (R75). -/
def execMemoryResponseLimit (s : State) : Result := .next (takeResponseLimit s)

/-- HOLD_DEADLINE (R89): a standing hold whose deadline has come is refused; with no such hold the deadline has no effect. -/
def execHoldDeadline (s : State) : Result :=
  .next <|
    match s.host with
    | none => s
    | some job =>
      match job.stage with
      | .HELD (some 0) => refuseHost .HOLD_TIMEOUT job.region s
      | _ => s

end Sys2Proof.Machine
end

