-- ==== Sys2Proof/Machine/WriteEnds.lean ====
section
/-! DEFINITION. The meanings of the ends of retention writes (01 section 1.5, 02, 03, 09). Each row is the end of the write in
progress, which is the oldest one asked for (R1); where another write or none is in progress, the event cannot arise and the row
has no effect (log 5). -/

namespace Sys2Proof.Machine

/-- The 8 words of a capture as an image, word 0 at the lowest address (R11). -/
def imageOfWords (words : List Lanes) : Image := tabulate (fun i : Fin 8 => words.getD i.val default)

/-- The cause that the unwinding mark records: RESTART in a recovery, else the rollback cause (R14). A rollback always has its cause until
the mark ends (R51), so an absent one is never met. -/
def markCause (s : State) : UnwindCause :=
  if s.ctl.state = .RECOVERY then .RESTART
  else match s.ctl.cause with
    | some .ABORT => .ABORT
    | some .TRIP => .TRIP
    | some .FAULT => .FAULT
    | none => .RESTART

/-- What a retention write makes of the store, with the values that the blocks of s give it (sections 1.5 and 9.5); a capture's writes name
its record's line, region, words and slot (R10, R11, R12). -/
def writeEffect (s : State) (w : RetentionWrite) (r : Retention) : Retention :=
  match w with
  | .ALLOCATION => (s.capture.map (fun job => allocationWrite job.line job.region r)).getD r
  | .COMPLETION => (s.capture.map (fun job => completionWrite job.slot (imageOfWords job.words) r)).getD r
  | .RELEASE => (s.capture.map (fun job => releaseWrite job.slot r)).getD r
  | .SEAL => sealWrite s.uptime.ms r
  | .CLEAR => clearWrite r
  | .MARK => unwindingMark (markCause s) r
  | .RETIRE => retireWrite (unwindKind s) s.restore.restored s.uptime.ms r
  | .FINISH => finishWrite (unwindKind s) s.restore.restored s.uptime.ms r
  | .DISCARD => discardWrite s.uptime.ms r
  | .BOOT_COUNT => bootCountWrite r
  | .INITIALISATION => initialisationWrite r

/-- The retention write w is made, whole (R1). -/
def makeWrite (w : RetentionWrite) (s : State) : State := store (writeEffect s w) s

/-- The end of write w takes effect when w is the write in progress. -/
def whenWriteEnds (w : RetentionWrite) (f : State → State) (s : State) : State :=
  if s.writes.head? = some w then f (endWrite s) else s

/-- The high-water check: an allocation that raised the count from L-1 to L sets JHIGH (R23). -/
def highWaterCheck (s : State) : State :=
  if s.retention.header.count = s.cfg.highWater then setEvent .JHIGH s else s

/-- After the allocation write an ALLOCATING engine asks for the port; an ABANDONING one waits for its release (R18, R20). -/
def allocatedStage : CaptureStage → CaptureStage
  | .ALLOCATING => .WAITING
  | stage => stage

/-- The allocation write ends (R10, R18, R20, R23). -/
def allocationEnds (s : State) : State :=
  match s.capture, lowestFree s.retention with
  | some job, some k =>
    let allocated := highWaterCheck (indexGain job.line k (makeWrite .ALLOCATION s))
    arbitrate { allocated with capture := some { job with stage := allocatedStage job.stage, slot := k } }
  | _, _ => s

/-- ALLOCATION_WRITE_END. -/
def execAllocationWriteEnd (s : State) : Result := .next (whenWriteEnds .ALLOCATION allocationEnds s)

/-- The completion write ends: the guarded write enters the queue, the host is answered OK, the engine is IDLE (R11, R18). -/
def completionEnds (s : State) : State :=
  match s.capture with
  | none => s
  | some job =>
    let completed := makeWrite .COMPLETION s
    let posted := postWrite job.addr job.size job.data .GUARDED (some job.region) completed
    arbitrate (drainCheck { posted with capture := none })

/-- COMPLETION_WRITE_END. -/
def execCompletionWriteEnd (s : State) : Result := .next (whenWriteEnds .COMPLETION completionEnds s)

/-- The fault of a failed capture read, handed over when the release write ends (R19, R137). -/
def captureFault (job : CaptureJob) (s : State) : State :=
  match job.failure with
  | none => s
  | some cause => recordFault .CAPTURE_READ cause (wordAddr job.line job.words.length) (openEpoch s.retention) s

/-- The release write ends: the slot is FREE again and the guarded write refused with ABORTED or MEMORY (R12, R19, R20). An abandoned
capture whose word read is still outstanding stays ABANDONING. -/
def releaseEnds (s : State) : State :=
  match s.capture with
  | none => s
  | some job =>
    let released := indexLose job.slot (makeWrite .RELEASE s)
    if job.stage = .ABANDONING then
      let refused := refuseHost .ABORTED (some job.region) released
      if s.arbiter.grant = some .CAPTURE then refused else drainCheck { refused with capture := none }
    else
      drainCheck { captureFault job (refuseHost .MEMORY (some job.region) released) with capture := none }

/-- RELEASE_WRITE_END. -/
def execReleaseWriteEnd (s : State) : Result := .next (whenWriteEnds .RELEASE releaseEnds s)

/-- The application of the staged table, in one step: touched entries replace active ones, their marks are cleared and their meter records
reset (R110, R111). -/
def applyStaged (s : State) : State :=
  { s with
    active := tabulate (fun i => if (s.staged.get i).touched then (s.staged.get i).entry else s.active.get i)
    meters := tabulate (fun i => if (s.staged.get i).touched then clearMeter else s.meters.get i)
    staged := tabulate (fun i => { s.staged.get i with touched := false }) }

/-- The seal write ends: SEALED, E advanced, COMMITTED appended; the staged table is applied and the clear write asked for (R39, R40). -/
def sealEnds (s : State) : State := askWrite .CLEAR (applyStaged (makeWrite .SEAL s))

/-- SEAL_WRITE_END. -/
def execSealWriteEnd (s : State) : Result := .next (whenWriteEnds .SEAL sealEnds s)

/-- The event at the end of a clear write: COMMITTED of a commit, RESTARTED of a recovery from SEALED (R41, R65). -/
def clearEvent (s : State) : Event := if s.ctl.state = .RECOVERY then .RESTARTED else .COMMITTED

/-- The clear write ends: the journal is EMPTY, the event is set and the state becomes OPEN (R41, R65). -/
def clearEnds (s : State) : State :=
  let cleared := makeWrite .CLEAR { s with index := [] }
  arbitrate (enterOpen (setEvent (clearEvent s) cleared))

/-- CLEAR_WRITE_END. -/
def execClearWriteEnd (s : State) : Result := .next (whenWriteEnds .CLEAR clearEnds s)

/-- The unwinding mark ends: the header is UNWINDING and the restore engine starts (R14, R57, R64). -/
def markEnds (s : State) : State :=
  let marked := makeWrite .MARK s
  arbitrate (startUnwind { marked with ctl := { marked.ctl with cause := none } })

/-- UNWINDING_MARK_END. -/
def execUnwindingMarkEnd (s : State) : Result := .next (whenWriteEnds .MARK markEnds s)

/-- A retire write ends: the newest slot is FREE; with slots left the engine selects the next, else the unwind is over (R15, R58, R61, R65).
-/
def retireEnds (s : State) : State :=
  let freed := makeWrite .RETIRE s
  let unindexed := match newestSlot s.retention with
    | none => freed
    | some k => indexLose k freed
  arbitrate (if unindexed.retention.header.count = 0 then unwindOver unindexed else selectSlot unindexed)

/-- RETIRE_WRITE_END. -/
def execRetireWriteEnd (s : State) : Result := .next (whenWriteEnds .RETIRE retireEnds s)

/-- The finish write ends an unwind with count 0 (R15, R61, R65). -/
def finishEnds (s : State) : State :=
  arbitrate (unwindOver (makeWrite .FINISH s))

/-- FINISH_WRITE_END. -/
def execFinishWriteEnd (s : State) : Result := .next (whenWriteEnds .FINISH finishEnds s)

/-- The discard write ends: the journal is EMPTY with its DISCARDED outcome, the engine is IDLE and the state OPEN with no event (R15, R70).
A retire or finish that the engine still had asked for is not made, and a restore word in flight keeps the port until it ends (log 13). -/
def discardEnds (s : State) : State :=
  let discarded := makeWrite .DISCARD { s with index := [], writes := [], writeBegun := false }
  arbitrate (enterOpen (restoreToIdle discarded))

/-- DISCARD_WRITE_END. -/
def execDiscardWriteEnd (s : State) : Result := .next (whenWriteEnds .DISCARD discardEnds s)

/-- Recovery starts by the header (R48, R63, R64). -/
def startRecovery (s : State) : State :=
  let recovering := { s with ctl := { s.ctl with state := .RECOVERY } }
  match s.retention.header.state with
  | .SEALED => askWrite .CLEAR recovering
  | .UNWINDING => startUnwind recovering
  | .OPEN | .EMPTY => askWrite .MARK recovering

/-- The controller chooses its first state from the header (R48, R163). -/
def chooseFirstState (s : State) : State :=
  if s.retention.header.state = .EMPTY then enterOpen (setEvent .RESTARTED s) else startRecovery s

/-- The restart ends (R161 step 5): the supply is RUN, the reset ends, uptime and the window timer start from 0. -/
def endRestart (s : State) : State :=
  chooseFirstState
    { s with
      supply := .RUN, settle := .STOPPED, resetInForce := false
      uptime := { ms := 0, us := 0 }
      window := { length := 16, elapsed := 0 } }

/-- BOOT_COUNT_WRITE_END (R2, R161 step 3). -/
def execBootCountWriteEnd (s : State) : Result :=
  .next (whenWriteEnds .BOOT_COUNT (fun s => arbitrate (endRestart (makeWrite .BOOT_COUNT s))) s)

/-- INITIALISATION_WRITE_END (R2, R156, R161 step 4): the restart ends with RETENTION_LOST set too (R143). -/
def execInitialisationWriteEnd (s : State) : Result :=
  .next (whenWriteEnds .INITIALISATION
    (fun s => arbitrate (setEvent .RETENTION_LOST (endRestart (makeWrite .INITIALISATION s)))) s)

end Sys2Proof.Machine
end

