-- ==== Sys2Proof/Machine/Timers.lean ====
section
/-! DEFINITION. The meanings of the MARK line, the auto-commit timer and the window timer (02 R32 to R34, 06). -/

namespace Sys2Proof.Machine

/-- MARK_REQUEST (R32): the microsecond of a qualification that stands has passed, and a commit request arrives (R31). -/
def execMarkRequest (s : State) : Result :=
  .next (if s.mark = .QUALIFIED then (commitRequest { s with mark := .HIGH }).1 else s)

/-- MARK_RISING_EDGE (R32): a rise from low starts the qualification, unless the state is OFF. -/
def execMarkRisingEdge (s : State) : Result :=
  .next (if s.mark = .LOW then { s with mark := if s.ctl.state = .OFF then .HIGH else .QUALIFYING } else s)

/-- MARK_FALLING_EDGE (R32): MARK is low; a qualification that stands is dropped. -/
def execMarkFallingEdge (s : State) : Result := .next { s with mark := .LOW }

/-- AUTO_COMMIT_EXPIRY (R33): the full interval has passed, the timer expires and a commit request arrives (R31). A timer that a
SET_CONFIG has just restarted has not expired (R35). -/
def execAutoCommitExpiry (s : State) : Result :=
  .next (if s.ctl.autoTimer = some 0 then (commitRequest { s with ctl := { s.ctl with autoTimer := none } }).1 else s)

/-- One region at a window boundary (R118, R119, R120). -/
def boundaryMeter (r : Region) (m : Meter) : Meter :=
  if isMetered r = false then m
  else if m.trip = .TRIPPED then { m with latch := m.count, count := 0 }
  else
    let strikes := if m.count > r.writeLimit then m.strikes + 1 else 0
    if strikes = r.qualify then { count := 0, latch := m.count, strikes := 0, trip := .TRIPPED }
    else { count := 0, latch := m.count, strikes := strikes, trip := .CLEAR }

/-- Region i trips at this boundary (R118). -/
def tripsAt (s : State) (i : RegionNo) : Bool :=
  (s.meters.get i).trip == .CLEAR && (boundaryMeter (s.active.get i) (s.meters.get i)).trip == .TRIPPED

/-- The regions that trip at this boundary. -/
def trippingRegions (s : State) : List RegionNo := (List.ofFn (fun i : RegionNo => i)).filter (tripsAt s)

/-- The order of the trips of one boundary reaches the controller: a rollback with cause TRIP in OPEN, nothing more elsewhere (R54,
R121). -/
def orderTripRollback (s : State) : State :=
  if s.ctl.state = .OPEN then rollbackDrainCheck (enterRollback .TRIP s) else s

/-- The window boundary (R114): every region is evaluated, the configured length takes effect, the next window begins; the trips
set TRIP and are handed on together (R120, R121). -/
def windowBoundary (s : State) : State :=
  let tripping := trippingRegions s
  let evaluated :=
    { s with
      meters := tabulate (fun i => boundaryMeter (s.active.get i) (s.meters.get i))
      window := { length := windowLength s.cfg.windowCode, elapsed := 0 } }
  let flagged := if tripping.isEmpty then evaluated else setEvent .TRIP evaluated
  if tripping.any (fun i => (s.active.get i).action == .ROLLBACK) then orderTripRollback flagged else flagged

/-- The window in progress has reached the length in force (R114). -/
def windowIsOver (w : Window) : Bool := w.elapsed ≥ w.length * 1000

/-- WINDOW_BOUNDARY: the elapsed time has reached the length in force, in a running part (R114). -/
def execWindowBoundary (s : State) : Result :=
  .next (if isRunning s && windowIsOver s.window then windowBoundary s else s)

end Sys2Proof.Machine
end

