-- ==== Sys2Proof/Machine/Supply.lean ====
section
/-! DEFINITION. The meanings of the supply and reset rows (09): stopping, the supply states, RST#, the restart's first steps. -/

namespace Sys2Proof.Machine

/-- The access in flight is dropped and its tag owed (R76). -/
def dropAccess (p : MemoryPort) : MemoryPort :=
  match p.inFlight with
  | none => p
  | some a => { p with inFlight := none, timer := 0, owed := markOwed p.owed a.tag true }

/-- A frame in progress is discarded: MCS# is still low and the frame is not taken (R165, R168). -/
def discardFrame (l : Link) : Link := if l.state = .IDLE then l else { idleLink with state := .PASSED }

/-- A qualification of MARK that stands makes no request once the state is OFF (R32). -/
def dropMark : MarkLine → MarkLine
  | .LOW => .LOW
  | _ => .HIGH

/-- A qualification of RST# that stands is dropped: the line is low, and nothing is being timed (R164). -/
def dropReset : ResetLine → ResetLine
  | .QUALIFYING | .QUALIFIED => .LOW
  | line => line

/-- Of the writes asked for, those made before a stop is taken when n of them have begun: the first n, each begun at the end of the one
before (R1). What waits behind a discard is not made (log 13). -/
def begunWrites : List RetentionWrite → Nat → List RetentionWrite
  | [], _ => []
  | _ :: _, 0 => []
  | .DISCARD :: _, _ + 1 => [.DISCARD]
  | w :: rest, n + 1 => w :: begunWrites rest n

/-- How many of the writes asked for have begun at a stop: free (log 8), but for one known to have begun (R1, R20). -/
def writesBegun (s : State) : Nat := max (Config.writesBegun s.free) (if s.writeBegun then 1 else 0)

/-- The writes asked for of which n have begun at a stop: those are made before the stop is taken (R1). -/
def endBegunWrites (n : Nat) (s : State) : State := (begunWrites s.writes n).foldl (fun u w => makeWrite w u) s

/-- Every volatile block stops, as one event (R157, R159): the table of R157 line by line. The request in progress is answered ERR with
POWER or RESET, whatever a begun write would have brought it (R21); retention writes asked for and not begun are not made (R1, log 8). -/
def stopPart (begun : Nat) (before : State) : State :=
  let s := endBegunWrites begun before
  let answered := answerHost .ERR [] (some (stopReason s)) s
  withEvents s.events.flags s.events.enables
    { answered with
      writes := []
      writeBegun := false
      capture := none
      queue := []
      port := dropAccess s.port
      arbiter := { s.arbiter with grant := none }
      ctl := { s.ctl with state := .OFF, autoTimer := none }
      restore := idleRestore
      link := discardFrame s.link
      rst := dropReset s.rst
      mark := dropMark s.mark }

/-- Entry to FAILING (R154, R157); the settle timer is dropped. -/
def enterFailing (begun : Nat) (s : State) : State := stopPart begun { s with supply := .FAILING, settle := .STOPPED }

/-- The step uses one free value, and the next use gets another (log 6, log 8). -/
def useFree (s : State) : State := { s with free := s.free + 1 }

/-- VDD_FAIL: VDD below 2.95 V (R154, R157); FAILING and BACKUP stay. Which retention writes had begun is free (log 8). -/
def execVddFail (s : State) : Result :=
  .next <|
    match s.supply with
    | .RUN | .SETTLING => enterFailing (writesBegun s) (useFree s)
    | .FAILING | .BACKUP => s

/-- Content of the retention store that has lost its hold, with the latch clear (R155, R156); the content is a free value. -/
def loseStore (s : State) : State :=
  { s with retention := { Config.lostStore s.free with latch := false }, free := s.free + 1 }

/-- Step 1 of a restart: every volatile block takes its value after a restart (R161, section 9.7). -/
def startVolatile (s : State) : State :=
  { s with
    host := none
    capture := none
    index := []
    queue := []
    port := { s.port with inFlight := none, timer := 0 }
    arbiter := { grant := none, hostCount := 0 }
    ctl := { state := .OFF, faulted := false, pendingCommit := false, autoTimer := none, stallOrigin := none, cause := none }
    restore := idleRestore
    cfg := defaultConfiguration
    active := Vector.replicate 16 defaultRegion
    staged := Vector.replicate 16 { entry := defaultRegion, touched := false }
    meters := Vector.replicate 16 clearMeter
    report := { log := [], dropped := 0, nextSeq := 0, fault := none }
    events := { flags := 0, enables := 0, alert := .RELEASED } }

/-- The volatile state is lost: every block holds what a restart gives it, of the link and the input lines only the levels are left, and the
port's tags start from 0 with none owed (R76, R158; log 9). -/
def loseVolatile (s : State) : State :=
  { startVolatile s with
    writes := []
    writeBegun := false
    port := { inFlight := none, timer := 0, nextTag := 0, owed := Vector.replicate 16 false }
    window := { length := 16, elapsed := 0 }
    rst := dropReset s.rst
    mark := dropMark s.mark
    link := { idleLink with state := if s.link.state = .IDLE then .IDLE else .PASSED }
    uptime := { ms := 0, us := 0 } }

/-- Entry to BACKUP (R158): only the store and the monitor are powered, and the volatile state is lost. VBK below 1.8 V at the entry clears
the latch (R156). -/
def enterBackup (vbkBelowMinimum : Bool) (s : State) : State :=
  let unpowered := { loseVolatile s with supply := .BACKUP, settle := .STOPPED }
  if vbkBelowMinimum then loseStore unpowered else unpowered

/-- VDD_SWITCH_OVER: VDD below 2.2 V (R154). From RUN and SETTLING it is two moves: entry to FAILING with all its effects, then BACKUP. -/
def execVddSwitchOver (vbkBelowMinimum : Bool) (s : State) : Result :=
  .next <|
    match s.supply with
    | .RUN | .SETTLING => enterBackup vbkBelowMinimum (enterFailing (writesBegun s) (useFree s))
    | .FAILING => enterBackup vbkBelowMinimum s
    | .BACKUP => s

/-- VDD_GOOD: VDD at or above 3.05 V (R154); entry to SETTLING starts the settle timer from 0. -/
def execVddGood (s : State) : Result :=
  .next <|
    match s.supply with
    | .FAILING | .BACKUP => { s with supply := .SETTLING, settle := .RUNNING 0 }
    | .RUN | .SETTLING => s

/-- A restart begins (R161 steps 1 to 4): the latch decides between the increment of B and the initialisation. -/
def beginRestart (s : State) : State :=
  { startVolatile s with writes := [if s.retention.latch then .BOOT_COUNT else .INITIALISATION], writeBegun := false }

/-- RST# is held low: asserted, or low with nothing being timed (R160, log 11). -/
def resetHeld (s : State) : Bool := s.rst == .ASSERTED || s.rst == .LOW

/-- The settle time has passed (R160): with RST# held low the supply is RUN with the reset in force; otherwise the restart begins. -/
def settleEnds (s : State) : State :=
  if resetHeld s then { s with supply := .RUN, settle := .STOPPED, rst := .ASSERTED, resetInForce := true }
  else beginRestart { s with settle := .EXPIRED }

/-- The settle timer has reached the settle time (R154). -/
def settleIsDue : SettleTimer → Bool
  | .RUNNING n => n ≥ settleTime
  | _ => false

/-- SETTLE_TIMER_EXPIRY (R154, R160): the timer runs in SETTLING alone. -/
def execSettleTimerExpiry (s : State) : Result :=
  .next (if s.supply == .SETTLING && settleIsDue s.settle then settleEnds s else s)

/-- VBK_LOW: VBK below 1.8 V clears the latch in BACKUP and changes nothing elsewhere (R156). -/
def execVbkLow (s : State) : Result := .next (if s.supply = .BACKUP then loseStore s else s)

/-- FIRST_POWER (R155): the monitor starts in BACKUP with the latch clear and the store undefined, after a time with no power, which stopped
every block (log 19). -/
def execFirstPower (s : State) : Result := .next (loseStore (enterBackup false (enterFailing 0 s)))

/-- RST_FALLING_EDGE (R159): RST# low starts its 1 us. -/
def execRstFallingEdge (s : State) : Result := .next (if s.rst = .HIGH then { s with rst := .QUALIFYING } else s)

/-- RST_ASSERT (R159): RST# has been low for 1 us; the part stops and the reset is in force. The supply state stays. -/
def execRstAssert (s : State) : Result :=
  .next <|
    if s.rst = .QUALIFIED then stopPart (writesBegun s) { useFree s with rst := .ASSERTED, resetInForce := true }
    else s

/-- RST# is released after an assertion (R160): with the supply RUN the restart begins; otherwise the reset ends, and a supply episode whose
settle time has passed restarts at once (log 12). -/
def releaseReset (s : State) : State :=
  match s.supply, s.settle with
  | .RUN, _ => beginRestart { s with rst := .HIGH }
  | .SETTLING, .EXPIRED => beginRestart { s with rst := .HIGH, resetInForce := false }
  | _, _ => { s with rst := .HIGH, resetInForce := false }

/-- RST_RELEASE (R159, R160): RST# goes high. A low that was not timed to 1 us was no assertion. -/
def execRstRelease (s : State) : Result :=
  .next <|
    match s.rst with
    | .HIGH => s
    | .QUALIFYING | .QUALIFIED | .LOW => { s with rst := .HIGH }
    | .ASSERTED => releaseReset s

end Sys2Proof.Machine
end

