-- ==== Sys2Proof/Machine/LinkFrame.lean ====
section
/-! DEFINITION. The frame of the management link: what MDO shows, the bits received, the take point (10 R167 to R171). -/

namespace Sys2Proof.Machine

/-- The byte at the answer position; past the answer's end every byte reads 0x00 (R171). -/
def answerByte (l : Link) : Byte := (l.answer.getD []).getD l.position 0

/-- The bit on MDO: zeros while RECEIVING (R169), the answer's next bit while RESPONDING (R171), released otherwise (R167). -/
def mdoOf (l : Link) : Option Bool :=
  match l.state with
  | .RECEIVING => some false
  | .RESPONDING => some ((answerByte l).getLsbD (7 - l.bitPosition))
  | .IDLE | .PASSED => none

/-- The link with MDO driven by its state. -/
def present (l : Link) : Link := { l with mdo := mdoOf l }

/-- The bytes of the frame received so far (R168). -/
def receivedBytes (l : Link) : List Byte := l.code.toList ++ l.params

/-- The bits of the frame received so far, in order. -/
def receivedBits (l : Link) : List Bool := bitsOfBytes (receivedBytes l) ++ (bitsOfByte l.shift).drop (8 - l.bitCount)

/-- The frame at its take point, with the answer fixed (R170). -/
def respondingLink (code : Byte) (params answer : List Byte) : Link :=
  present
    { idleLink with state := .RESPONDING, code := some code, params := params, answer := some answer }

/-- The take point: the command acts, its answer is fixed, the link responds (R170). -/
def takePoint (code : Byte) (params : List Byte) (act : State → State × List Byte) (s : State) : State :=
  { (act s).1 with link := respondingLink code params (act s).2 }

/-- The frame in progress can be a frame of these bytes: it is taken, its take point has not come, and what it has received is
the beginning of them (R168, R169; log 2). -/
def canComplete (bytes : List Byte) (s : State) : Bool :=
  isRunning s && s.link.state == .RECEIVING && (receivedBits s.link).isPrefixOf (bitsOfBytes bytes)

/-- The take point of a link command arrives: the rest of its frame's input has come (R169, log 2). Where no frame in progress can
carry it, it cannot arise and has no effect (log 5). -/
def atTakePoint (i : Instr) (act : State → State × List Byte) (s : State) : State :=
  match frameBytes i with
  | some (code :: params) => if canComplete (code :: params) s then takePoint code params act s else s
  | _ => s

end Sys2Proof.Machine
end

