-- ==== Sys2Proof/Machine/Commands.lean ====
section
/-! DEFINITION. The link commands: for each what its take point does and answers (act...), and its row's meaning (exec...) (10,
11 and the chapters that own the effects). -/

namespace Sys2Proof.Machine

/-- An answer: the result code, then the data (R171, R185). -/
def answerOf (result : LinkResult) (data : List Byte) : List Byte := resultCode result :: data

/-- READ_STATUS: eleven items, 17 data bytes (R177, section 11.4). -/
def statusBytes (s : State) : List Byte :=
  let h := s.retention.header
  [epochStateCode s.ctl.state, headerStateCode h.state] ++ bytes32 h.epoch ++ bytes16 (BitVec.ofNat 16 h.count)
    ++ [BitVec.ofNat 8 s.queue.length,
        flagByte s.ctl.pendingCommit ||| flagByte s.ctl.faulted <<< 1 ||| flagByte s.capture.isSome <<< 2]
    ++ bytes16 h.boot ++ bytes32 s.uptime.ms ++ [unwindCauseCode h.cause]

/-- READ_STATUS changes nothing (R177, R182). -/
def actReadStatus (s : State) : State × List Byte := (s, answerOf .DONE (statusBytes s))

/-- READ_STATUS. -/
def execReadStatus (s : State) : Result := .next (atTakePoint .readStatus actReadStatus s)

/-- COMMIT: a commit request of the link (R31). -/
def actCommit (s : State) : State × List Byte := ((commitRequest s).1, answerOf (commitRequest s).2 [])

/-- COMMIT. -/
def execCommit (s : State) : Result := .next (atTakePoint .commit actCommit s)

/-- ABORT: in OPEN a rollback with cause ABORT, with the abandon order to a capture in flight (R52, R53). -/
def actAbort (s : State) : State × List Byte :=
  if s.ctl.state = .OPEN then
    (rollbackDrainCheck (abandonCapture (enterRollback .ABORT s)), answerOf .DONE [])
  else (s, answerOf .STATE [])

/-- ABORT. -/
def execAbort (s : State) : Result := .next (atTakePoint .abort actAbort s)

/-- RETRY_RESTORE: in STALLED the unwind resumes at the failed slot, from word 0 (R69), with a discard write pending too (log 13). -/
def actRetryRestore (s : State) : State × List Byte :=
  if s.ctl.state = .STALLED then
    (arbitrate (selectSlot (changeState (stateOfOrigin s.ctl.stallOrigin) s)), answerOf .DONE [])
  else (s, answerOf .STATE [])

/-- RETRY_RESTORE. -/
def execRetryRestore (s : State) : Result := .next (atTakePoint .retryRestore actRetryRestore s)

/-- DISCARD_JOURNAL: in STALLED the discard write is asked for, once (R70, log 13). -/
def actDiscardJournal (s : State) : State × List Byte :=
  if s.ctl.state = .STALLED then
    (if s.writes.contains .DISCARD then s else askWrite .DISCARD s, answerOf .DONE [])
  else (s, answerOf .STATE [])

/-- DISCARD_JOURNAL. -/
def execDiscardJournal (s : State) : Result := .next (atTakePoint .discardJournal actDiscardJournal s)

/-- STAGE_REGION: with every check passed the staged entry is replaced and touched (R106, R107). -/
def actStageRegion (index kind : Byte) (base limit : BitVec 24) (metered : Byte) (writeLimit : BitVec 24) (qualify action : Byte)
    (s : State) : State × List Byte :=
  match regionIndex index, regionFields kind base limit metered writeLimit qualify action with
  | some i, some r => ({ s with staged := s.staged.set i.val { entry := r, touched := true } i.isLt }, answerOf .DONE [])
  | _, _ => (s, answerOf .INVALID [])

/-- STAGE_REGION. -/
def execStageRegion (index kind : Byte) (base limit : BitVec 24) (metered : Byte) (writeLimit : BitVec 24) (qualify action : Byte)
    (s : State) : Result :=
  .next (atTakePoint (.stageRegion index kind base limit metered writeLimit qualify action)
    (actStageRegion index kind base limit metered writeLimit qualify action) s)

/-- CLEAR_STAGED: every touched mark is cleared, the contents are kept (R108). -/
def actClearStaged (s : State) : State × List Byte :=
  ({ s with staged := tabulate (fun i => { s.staged.get i with touched := false }) }, answerOf .DONE [])

/-- CLEAR_STAGED. -/
def execClearStaged (s : State) : Result := .next (atTakePoint .clearStaged actClearStaged s)

/-- The entry part of a READ_REGION answer (section 11.4). -/
def regionBytes (r : Region) : List Byte :=
  [regionKindCode r.kind] ++ bytes24 (r.base.setWidth 24) ++ bytes24 (r.limit.setWidth 24) ++ [flagByte r.metered]
    ++ bytes24 (BitVec.ofNat 24 r.writeLimit) ++ [BitVec.ofNat 8 r.qualify, tripActionCode r.action]

/-- The ACTIVE tail of a READ_REGION answer (section 11.4). -/
def meterBytes (m : Meter) : List Byte :=
  [tripStateCode m.trip, BitVec.ofNat 8 m.strikes] ++ bytes24 (BitVec.ofNat 24 m.count) ++ bytes24 (BitVec.ofNat 24 m.latch)

/-- READ_REGION: an active entry with its meter record, or a staged entry with its mark (R113). -/
def actReadRegion (index selection : Byte) (s : State) : State × List Byte :=
  match regionIndex index, selection.toNat with
  | some i, 0 => (s, answerOf .DONE (regionBytes (s.active.get i) ++ meterBytes (s.meters.get i)))
  | some i, 1 => (s, answerOf .DONE (regionBytes (s.staged.get i).entry ++ [flagByte (s.staged.get i).touched]))
  | _, _ => (s, answerOf .INVALID [])

/-- READ_REGION. -/
def execReadRegion (index selection : Byte) (s : State) : Result :=
  .next (atTakePoint (.readRegion index selection) (actReadRegion index selection) s)

/-- CLEAR_TRIP: a TRIPPED region becomes CLEAR with strikes 0 (R124). -/
def actClearTrip (index : Byte) (s : State) : State × List Byte :=
  match regionIndex index with
  | none => (s, answerOf .INVALID [])
  | some i =>
    if (s.meters.get i).trip = .TRIPPED then
      (putMeter i { s.meters.get i with trip := .CLEAR, strikes := 0 } s, answerOf .DONE [])
    else (s, answerOf .NOT_TRIPPED [])

/-- CLEAR_TRIP. -/
def execClearTrip (index : Byte) (s : State) : Result := .next (atTakePoint (.clearTrip index) (actClearTrip index) s)

/-- The auto-commit timer at a SET_CONFIG take point (R34). -/
def retimeAutoCommit (interval : BitVec 16) (s : State) : Option Nat :=
  if s.ctl.state = .OPEN ∧ interval ≠ s.cfg.autoInterval then fullInterval interval else s.ctl.autoTimer

/-- SET_CONFIG: both codes in range, all four values are stored together (R179, R34). -/
def actSetConfig (window hold level : Byte) (interval : BitVec 16) (s : State) : State × List Byte :=
  match codeField window, codeField hold with
  | some w, some h =>
    ({ s with
        cfg := { windowCode := w, holdCode := h, highWater := level.toNat + 1, autoInterval := interval }
        ctl := { s.ctl with autoTimer := retimeAutoCommit interval s } }, answerOf .DONE [])
  | _, _ => (s, answerOf .INVALID [])

/-- SET_CONFIG. -/
def execSetConfig (window hold level : Byte) (interval : BitVec 16) (s : State) : Result :=
  .next (atTakePoint (.setConfig window hold level interval) (actSetConfig window hold level interval) s)

/-- READ_CONFIG: the four values as last stored (R181). -/
def actReadConfig (s : State) : State × List Byte :=
  (s, answerOf .DONE
    ([BitVec.ofNat 8 s.cfg.windowCode.val, BitVec.ofNat 8 s.cfg.holdCode.val, BitVec.ofNat 8 (s.cfg.highWater - 1)]
      ++ bytes16 s.cfg.autoInterval))

/-- READ_CONFIG. -/
def execReadConfig (s : State) : Result := .next (atTakePoint .readConfig actReadConfig s)

/-- SET_ENABLES: the whole enable set is replaced and ALERT# follows; a bit 12 to 15 names no flag (R147, R186). -/
def actSetEnables (enables : BitVec 16) (s : State) : State × List Byte :=
  if enables.toNat < 4096 then (withEvents s.events.flags (enables.setWidth 12) s, answerOf .DONE [])
  else (s, answerOf .INVALID [])

/-- SET_ENABLES. -/
def execSetEnables (enables : BitVec 16) (s : State) : Result := .next (atTakePoint (.setEnables enables) (actSetEnables enables) s)

/-- TAKE_EVENTS: the set flags are answered and cleared, and ALERT# follows (R148). -/
def actTakeEvents (s : State) : State × List Byte :=
  (withEvents 0 s.events.enables s, answerOf .DONE (bytes16 (s.events.flags.setWidth 16)))

/-- TAKE_EVENTS. -/
def execTakeEvents (s : State) : Result := .next (atTakePoint .takeEvents actTakeEvents s)

/-- A refusal record on the link, 17 bytes (section 11.4). -/
def refusalBytes (r : RefusalRecord) : List Byte :=
  bytes16 r.seq ++ bytes32 r.uptime ++ [requestKindCode r.kind] ++ bytes24 r.addr
    ++ [sizeByte r.size, reasonCode r.reason, regionByte r.region] ++ bytes32 r.epoch

/-- TAKE_REFUSALS: up to n of the oldest records with the dropped count leave the log (R135). -/
def actTakeRefusals (n : Byte) (s : State) : State × List Byte :=
  if 1 ≤ n.toNat ∧ n.toNat ≤ 4 then
    let taken := s.report.log.take n.toNat
    ({ s with report := { s.report with log := s.report.log.drop n.toNat, dropped := 0 } },
      answerOf .DONE ([BitVec.ofNat 8 taken.length, BitVec.ofNat 8 s.report.dropped] ++ taken.flatMap refusalBytes))
  else (s, answerOf .INVALID [])

/-- TAKE_REFUSALS. -/
def execTakeRefusals (n : Byte) (s : State) : Result := .next (atTakePoint (.takeRefusals n) (actTakeRefusals n) s)

/-- The fault record on the link, 15 bytes; an empty one is all zeros (section 11.4, R187). -/
def faultBytes : Option FaultRecord → List Byte
  | none => List.replicate 15 0
  | some f =>
    [0x01, faultSourceCode f.source, causeCode f.cause] ++ bytes24 f.addr ++ bytes32 f.epoch ++ bytes32 f.uptime
      ++ [BitVec.ofNat 8 f.repeats]

/-- READ_FAULT (R139). -/
def actReadFault (s : State) : State × List Byte := (s, answerOf .DONE (faultBytes s.report.fault))

/-- READ_FAULT. -/
def execReadFault (s : State) : Result := .next (atTakePoint .readFault actReadFault s)

/-- CLEAR_FAULT (R140). -/
def actClearFault (s : State) : State × List Byte :=
  ({ s with report := { s.report with fault := none } }, answerOf .DONE [])

/-- CLEAR_FAULT. -/
def execClearFault (s : State) : Result := .next (atTakePoint .clearFault actClearFault s)

/-- An outcome record on the link, 13 bytes (section 11.4). -/
def outcomeBytes (o : OutcomeRecord) : List Byte :=
  bytes32 o.epoch ++ [outcomeKindCode o.kind] ++ bytes16 (BitVec.ofNat 16 o.entries) ++ bytes16 o.boot ++ bytes32 o.uptime

/-- READ_OUTCOMES: the number of records, then the records, newest first (R46). -/
def actReadOutcomes (s : State) : State × List Byte :=
  (s, answerOf .DONE (BitVec.ofNat 8 s.retention.history.length :: s.retention.history.flatMap outcomeBytes))

/-- READ_OUTCOMES. -/
def execReadOutcomes (s : State) : Result := .next (atTakePoint .readOutcomes actReadOutcomes s)

/-- The image in a READ_ENTRY answer: present for a COMPLETE slot alone (R24, R187). -/
def imageBytes (slot : Slot) : List Byte :=
  if slot.state = .COMPLETE then (slot.image.map (fun image => image.toList.flatMap wordBytes)).getD [] else []

/-- READ_ENTRY: one slot (R24, section 11.4). -/
def entryBytes (slot : Slot) : List Byte :=
  [slotStateCode slot.state] ++ bytes24 (slot.line.setWidth 24) ++ [BitVec.ofNat 8 slot.region.val, slot.seq] ++ imageBytes slot

/-- READ_ENTRY changes nothing (R24). -/
def actReadEntry (slot : Byte) (s : State) : State × List Byte :=
  (s, answerOf .DONE (entryBytes (s.retention.slots.get (slotIndex slot))))

/-- READ_ENTRY. -/
def execReadEntry (slot : Byte) (s : State) : Result := .next (atTakePoint (.readEntry slot) (actReadEntry slot) s)

/-- A code that names no command changes no block (R174). -/
def actUnknownCode (s : State) : State × List Byte := (s, answerOf .UNKNOWN [])

/-- UNKNOWN_CODE: a code that does name a command has no such take point (R174, log 5). -/
def execUnknownCode (code : Byte) (s : State) : Result :=
  .next (if (paramCount code).isNone then atTakePoint (.unknownCode code) actUnknownCode s else s)

/-- What a link command does at its take point; the rows that are no link command have none. -/
def linkAct : Instr → State → State × List Byte
  | .readStatus => actReadStatus
  | .commit => actCommit
  | .abort => actAbort
  | .retryRestore => actRetryRestore
  | .discardJournal => actDiscardJournal
  | .stageRegion index kind base limit metered writeLimit qualify action =>
    actStageRegion index kind base limit metered writeLimit qualify action
  | .clearStaged => actClearStaged
  | .readRegion index selection => actReadRegion index selection
  | .clearTrip index => actClearTrip index
  | .setConfig window hold level interval => actSetConfig window hold level interval
  | .readConfig => actReadConfig
  | .setEnables enables => actSetEnables enables
  | .takeEvents => actTakeEvents
  | .takeRefusals n => actTakeRefusals n
  | .readFault => actReadFault
  | .clearFault => actClearFault
  | .readOutcomes => actReadOutcomes
  | .readEntry slot => actReadEntry slot
  | .unknownCode _ => actUnknownCode
  | _ => fun s => (s, [])

end Sys2Proof.Machine
end

