-- ==== Sys2Proof/Machine/LinkLines.lean ====
section
/-! DEFINITION. The meanings of the link's lines: MCS# and MCK with MDI (10 R167 to R173). -/

namespace Sys2Proof.Machine

/-- MCS_FALL: a frame begins, taken while the part runs and passed over while it does not (R165, R168). -/
def execMcsFall (s : State) : Result :=
  .next <|
    if s.link.state = .IDLE then
      { s with link := present { idleLink with state := if isRunning s then .RECEIVING else .PASSED } }
    else s

/-- MCS_RISE: the frame ends; before its take point it sets LINKERR and has no other effect (R172, R173). -/
def execMcsRise (s : State) : Result :=
  .next <|
    match s.link.state with
    | .IDLE => s
    | .RECEIVING => setEvent .LINKERR { s with link := idleLink }
    | .RESPONDING | .PASSED => { s with link := idleLink }

/-- A whole byte joins the frame: the first is the code, the later ones are parameters (R169). -/
def gainByte (b : Byte) (l : Link) : Link :=
  match l.code with
  | none => { l with code := some b, bitCount := 0, shift := 0 }
  | some _ => { l with params := l.params ++ [b], bitCount := 0, shift := 0 }

/-- A byte is whole: when it completes the frame's input the take point has come (R169, R170). -/
def byteWhole (b : Byte) (s : State) : State :=
  let l := gainByte b s.link
  match l.code with
  | none => { s with link := l }
  | some code =>
    match parseFrame code l.params with
    | some i => takePoint code l.params (linkAct i) s
    | none => { s with link := present l }

/-- RECEIVING: the edge samples one bit of MDI (R169). -/
def sampleBit (mdi : Bool) (s : State) : State :=
  let b := shiftIn s.link.shift mdi
  if s.link.bitCount + 1 ≥ 8 then byteWhole b s
  else { s with link := present { s.link with shift := b, bitCount := s.link.bitCount + 1 } }

/-- RESPONDING: the bit on MDI is ignored and the next answer bit follows on MDO (R168, R171; log 14). -/
def nextAnswerBit (l : Link) : Link :=
  present <|
    if l.bitPosition + 1 ≥ 8 then { l with position := l.position + 1, bitPosition := 0 }
    else { l with bitPosition := l.bitPosition + 1 }

/-- MCK_RISING_EDGE with the bit on MDI (R167, R168, R169). -/
def execMckRisingEdge (mdi : Bool) (s : State) : Result :=
  .next <|
    match s.link.state with
    | .RECEIVING => sampleBit mdi s
    | .RESPONDING => { s with link := nextAnswerBit s.link }
    | .IDLE | .PASSED => s

end Sys2Proof.Machine
end

