-- ==== Sys2Proof/Machine/Timebase.lean ====
section
/-! DEFINITION. The timebase (09 R164): what 1 us of an idle part does (log 3). Every timer advances, and the expiries that fall
due join the queue of waiting commands, in an order that is free where two fall together (log 4). -/

namespace Sys2Proof.Machine

/-- A hold's deadline comes 1 us nearer (R87). -/
def ageHold (job : HostJob) : HostJob :=
  match job.stage with
  | .HELD (some n) => { job with stage := .HELD (some (n - 1)) }
  | _ => job

/-- Uptime counts on by 1 us, in whole ms that wrap (R164). -/
def ageUptime (u : Uptime) : Uptime := if u.us + 1 ≥ 1000 then { ms := u.ms + 1, us := 0 } else { u with us := u.us + 1 }

/-- The settle timer runs in SETTLING (R154). -/
def ageSettle : SettleTimer → SettleTimer
  | .RUNNING n => .RUNNING (n + 1)
  | t => t

/-- MARK's microsecond has passed (R32). -/
def ageMark : MarkLine → MarkLine
  | .QUALIFYING => .QUALIFIED
  | line => line

/-- RST#'s microsecond has passed (R159). -/
def ageReset : ResetLine → ResetLine
  | .QUALIFYING => .QUALIFIED
  | line => line

/-- Every timer of the part 1 us later (R32, R33, R74, R87, R114, R154, R159, R164); RST# is not watched in BACKUP (R158). -/
def ageTimers (s : State) : State :=
  { s with
    host := s.host.map ageHold
    port := if s.port.inFlight.isSome then { s.port with timer := s.port.timer + 1 } else s.port
    ctl := { s.ctl with autoTimer := s.ctl.autoTimer.map (fun n => n - 1) }
    window := if isRunning s then { s.window with elapsed := s.window.elapsed + 1 } else s.window
    uptime := if isRunning s then ageUptime s.uptime else s.uptime
    settle := if s.supply = .SETTLING then ageSettle s.settle else s.settle
    rst := if s.supply = .BACKUP then s.rst else ageReset s.rst
    mark := ageMark s.mark }

/-- A list of one command, if a condition holds. -/
def dueIf (c : Bool) (i : Instr) : List Instr := if c then [i] else []

/-- A standing hold whose deadline has come. -/
def holdIsDue (s : State) : Bool := s.host.any (fun job => job.stage == .HELD (some 0))

/-- The expiries that are due: qualifications of MARK and RST# (RST# is not watched in BACKUP, R158), the memory response limit,
the hold deadline, the auto-commit timer, the window, the settle time. -/
def dueEvents (s : State) : List Instr :=
  dueIf (s.mark == .QUALIFIED) .markRequest
    ++ dueIf (s.rst == .QUALIFIED && s.supply != .BACKUP) .rstAssert
    ++ dueIf (s.port.inFlight.isSome && s.port.timer ≥ responseLimit) .memoryResponseLimit
    ++ dueIf (holdIsDue s) .holdDeadline
    ++ dueIf (s.ctl.autoTimer == some 0) .autoCommitExpiry
    ++ dueIf (isRunning s && windowIsOver s.window) .windowBoundary
    ++ dueIf (s.supply == .SETTLING && settleIsDue s.settle) .settleTimerExpiry

/-- The n-th order of a list, by the places at which its commands are put in turn; every order of the list has such an n. -/
def orderOf (n : Nat) : List Instr → List Instr
  | [] => []
  | [i] => [i]
  | i :: rest => (orderOf (n / (rest.length + 1)) rest).insertIdx (n % (rest.length + 1)) i

/-- The due events in the order taken: free where two or more are due together (section 0.6.6, log 4). -/
def queueDue (due : List Instr) (s : State) : State :=
  { s with pending := orderOf (Config.expiryOrder s.free) due, free := if due.isEmpty then s.free else s.free + 1 }

/-- A step of an idle part: 1 us passes (log 3). -/
def idleStep (s : State) : State := queueDue (dueEvents (ageTimers s)) (ageTimers s)

end Sys2Proof.Machine
end

