-- ==== Sys2Proof/Machine/Dispatch.lean ====
section
/-! DEFINITION. The dispatch: one arm per command. -/

namespace Sys2Proof.Machine

def exec (i : Instr) (s : State) : Host.Outcome State Fault Refusal :=
  match i with
  | .hostRequest op addr size tag => Sys2Proof.Machine.execHostRequest op addr size tag s
  | .memoryResponse tag answer => Sys2Proof.Machine.execMemoryResponse tag answer s
  | .memoryResponseLimit => Sys2Proof.Machine.execMemoryResponseLimit s
  | .holdDeadline => Sys2Proof.Machine.execHoldDeadline s
  | .allocationWriteEnd => Sys2Proof.Machine.execAllocationWriteEnd s
  | .completionWriteEnd => Sys2Proof.Machine.execCompletionWriteEnd s
  | .releaseWriteEnd => Sys2Proof.Machine.execReleaseWriteEnd s
  | .sealWriteEnd => Sys2Proof.Machine.execSealWriteEnd s
  | .clearWriteEnd => Sys2Proof.Machine.execClearWriteEnd s
  | .unwindingMarkEnd => Sys2Proof.Machine.execUnwindingMarkEnd s
  | .retireWriteEnd => Sys2Proof.Machine.execRetireWriteEnd s
  | .finishWriteEnd => Sys2Proof.Machine.execFinishWriteEnd s
  | .discardWriteEnd => Sys2Proof.Machine.execDiscardWriteEnd s
  | .markRequest => Sys2Proof.Machine.execMarkRequest s
  | .autoCommitExpiry => Sys2Proof.Machine.execAutoCommitExpiry s
  | .windowBoundary => Sys2Proof.Machine.execWindowBoundary s
  | .vddFail => Sys2Proof.Machine.execVddFail s
  | .vddSwitchOver vbkBelowMinimum => Sys2Proof.Machine.execVddSwitchOver vbkBelowMinimum s
  | .vddGood => Sys2Proof.Machine.execVddGood s
  | .settleTimerExpiry => Sys2Proof.Machine.execSettleTimerExpiry s
  | .vbkLow => Sys2Proof.Machine.execVbkLow s
  | .firstPower => Sys2Proof.Machine.execFirstPower s
  | .rstAssert => Sys2Proof.Machine.execRstAssert s
  | .rstRelease => Sys2Proof.Machine.execRstRelease s
  | .bootCountWriteEnd => Sys2Proof.Machine.execBootCountWriteEnd s
  | .initialisationWriteEnd => Sys2Proof.Machine.execInitialisationWriteEnd s
  | .mcsFall => Sys2Proof.Machine.execMcsFall s
  | .mcsRise => Sys2Proof.Machine.execMcsRise s
  | .readStatus => Sys2Proof.Machine.execReadStatus s
  | .commit => Sys2Proof.Machine.execCommit s
  | .abort => Sys2Proof.Machine.execAbort s
  | .retryRestore => Sys2Proof.Machine.execRetryRestore s
  | .discardJournal => Sys2Proof.Machine.execDiscardJournal s
  | .stageRegion index kind base limit metered writeLimit qualify action => Sys2Proof.Machine.execStageRegion index kind base limit metered writeLimit qualify action s
  | .clearStaged => Sys2Proof.Machine.execClearStaged s
  | .readRegion index selection => Sys2Proof.Machine.execReadRegion index selection s
  | .clearTrip index => Sys2Proof.Machine.execClearTrip index s
  | .setConfig window hold level interval => Sys2Proof.Machine.execSetConfig window hold level interval s
  | .readConfig => Sys2Proof.Machine.execReadConfig s
  | .setEnables enables => Sys2Proof.Machine.execSetEnables enables s
  | .takeEvents => Sys2Proof.Machine.execTakeEvents s
  | .takeRefusals n => Sys2Proof.Machine.execTakeRefusals n s
  | .readFault => Sys2Proof.Machine.execReadFault s
  | .clearFault => Sys2Proof.Machine.execClearFault s
  | .readOutcomes => Sys2Proof.Machine.execReadOutcomes s
  | .readEntry slot => Sys2Proof.Machine.execReadEntry slot s
  | .unknownCode code => Sys2Proof.Machine.execUnknownCode code s
  | .mckRisingEdge mdi => Sys2Proof.Machine.execMckRisingEdge mdi s
  | .markRisingEdge => Sys2Proof.Machine.execMarkRisingEdge s
  | .markFallingEdge => Sys2Proof.Machine.execMarkFallingEdge s
  | .rstFallingEdge => Sys2Proof.Machine.execRstFallingEdge s

end Sys2Proof.Machine
end

