-- ==== Sys2Proof/Safety.lean ====
section
/-! DEFINITION. What holds of every state the part can be in, in the terms the statements use: the laws of the stopped part, of
ALERT#, of the ranges of the registers, of the journal. -/

namespace Sys2Proof.Machine

/-- The retention writes that a restart asks for (R161 steps 3 and 4). -/
def isRestartWrite (w : RetentionWrite) : Bool := w == .BOOT_COUNT || w == .INITIALISATION

/-- ALERT# is driven low exactly while the part runs and some flag and its enable are both set (R151, R152). -/
def AlertLaw (s : State) : Prop :=
  s.events.alert = .LOW ↔
    isRunning s = true ∧ ∃ k, s.events.flags.getLsbD k = true ∧ s.events.enables.getLsbD k = true

/-- Every volatile block is stopped (R157, R159): no request, no capture, an empty queue, no access, no grant, no unwind, no timer of the
controller, no frame taken, nothing timed at MARK. The one retention write that can be asked for is a restart's, whose step 1 has cleared
the flags and the enables (R143, R161). -/
structure Stopped (s : State) : Prop where
  host : s.host = none
  capture : s.capture = none
  queue : s.queue = []
  access : s.port.inFlight = none
  grant : s.arbiter.grant = none
  restore : s.restore.state = .IDLE
  timer : s.ctl.autoTimer = none
  link : s.link.state = .IDLE ∨ s.link.state = .PASSED
  mark : s.mark = .LOW ∨ s.mark = .HIGH
  writes : s.writes = [] ∨
    (∃ w, s.writes = [w] ∧ isRestartWrite w = true) ∧ (s.rst ≠ .ASSERTED ∧ s.rst ≠ .LOW) ∧ s.events.flags = 0 ∧ s.events.enables = 0

/-- The law of running and stopping: the controller is OFF exactly while the part does not run (R25, R47), a part that does not run is
stopped (R157, R159), a running part asks for no restart write (R161), RST# asserted puts the reset in force (R159), and ALERT# follows its
law (R151, R152). -/
structure SupplyLaw (s : State) : Prop where
  off : s.ctl.state = .OFF ↔ isRunning s = false
  stopped : isRunning s = false → Stopped s
  running : isRunning s = true → ∀ w ∈ s.writes, isRestartWrite w = false
  asserted : s.rst = .ASSERTED → s.resetInForce = true
  alert : AlertLaw s

/-- A region entry whose fields are in their ranges (R100). -/
def RegionInRange (r : Region) : Prop :=
  r.base.toNat ≤ r.limit.toNat ∧ 1 ≤ r.writeLimit ∧ r.writeLimit ≤ 16777215 ∧ 1 ≤ r.qualify ∧ r.qualify ≤ 15

/-- A meter record in its ranges beside its region's active entry (R116, R118): strikes stay below the qualify value, and a TRIPPED region
is metered with strikes 0. -/
def MeterInRange (r : Region) (m : Meter) : Prop :=
  m.count ≤ 16777215 ∧ m.latch ≤ 16777215 ∧ m.strikes < r.qualify ∧ (m.trip = .TRIPPED → isMetered r = true ∧ m.strikes = 0)

/-- The tables (R100), the meter records (R116, R118), the report unit (R130, R132, R133, R138), the configuration (R178), the restore
attempt (R50), a retained history (R45), the response timer (R74) and the link's bit count (R168) are in their ranges. A response timer that
stands at its limit has its expiry waiting (R75), and a write known to have begun has been asked for (R1). The other counters are in
JournalLaw. -/
structure RangeLaw (s : State) : Prop where
  active : ∀ i, RegionInRange (s.active.get i)
  staged : ∀ i, RegionInRange (s.staged.get i).entry
  meters : ∀ i, MeterInRange (s.active.get i) (s.meters.get i)
  log : s.report.log.length ≤ 16
  dropped : s.report.dropped ≤ 255
  repeats : ∀ f, s.report.fault = some f → f.repeats ≤ 255
  highWater : 1 ≤ s.cfg.highWater ∧ s.cfg.highWater ≤ 256
  attempt : 1 ≤ s.restore.attempt ∧ s.restore.attempt ≤ 3
  history : s.retention.latch = true → s.retention.history.length ≤ 8
  response : s.port.inFlight.isSome = true → s.port.timer ≤ 200 ∧ (s.port.timer = 200 → .memoryResponseLimit ∈ s.pending)
  bits : s.link.bitCount ≤ 7
  begun : s.writeBegun = true → s.writes ≠ []

/-- No request is held at admission (R87). -/
def NoHold (s : State) : Prop := ∀ job, s.host = some job → ∀ deadline, job.stage ≠ .HELD deadline

/-- The arbiter and the port have nothing to decide: an access is in flight, or no grant stands and no requester waits (R97). -/
def PortAtRest (s : State) : Prop := s.port.inFlight.isSome = true ∨ (s.arbiter.grant = none ∧ chooseHolder s = none)

/-- The frame in progress can be the frame of this command, and its take point has not come (R168, R169). -/
def FrameReady (i : Instr) (s : State) : Prop := ∃ bytes, frameBytes i = some bytes ∧ canComplete bytes s = true

/-- The link at the take point of this command, with its answer fixed (R170). -/
def answeredLink (i : Instr) (answer : List Byte) : Link :=
  match frameBytes i with
  | some (code :: params) => respondingLink code params answer
  | _ => idleLink

/-- Commands carried out one after another, each on the state the one before left; it ends at a stop. -/
def runCommands : List Instr → State → Option State
  | [], s => some s
  | c :: rest, s =>
    match exec c s with
    | .next t => runCommands rest t
    | .fault _ => none
    | .refused _ => none

/-- A request that check 1 lets pass: the part runs, the port is IDLE, the state is OPEN, DRAINING or ROLLBACK (R72, R78). -/
structure PassesCheck1 (s : State) : Prop where
  running : isRunning s = true
  idle : s.host = none
  state : s.ctl.state = .OPEN ∨ s.ctl.state = .DRAINING ∨ s.ctl.state = .ROLLBACK

/-- Check 4 lets a WRITE pass: no region, or a region neither READONLY nor TRIPPED (R81). -/
def PassesCheck4 (s : State) (region : Option RegionNo) : Prop :=
  ∀ i, region = some i → (s.active.get i).kind ≠ .READONLY ∧ (s.meters.get i).trip = .CLEAR

/-- A WRITE that checks 1 to 5 let pass at once: OPEN, fewer than 8 entries queued, aligned, its region not refusing it (R78 to R82). -/
structure WritePasses (s : State) (addr : Addr) (size : Size) (region : Option RegionNo) : Prop where
  running : isRunning s = true
  idle : s.host = none
  state : s.ctl.state = .OPEN
  room : s.queue.length < 8
  aligned : addr.toNat % sizeBytes size = 0
  lookup : governingRegion s (lineOf addr) = region
  check4 : PassesCheck4 s region

/-- The event ends the access in flight, with this result, and leaves the port so (R75). -/
inductive AccessEnds (s : State) : Instr → Access → PortResult → MemoryPort → Prop where
  | ok (a : Access) (data : Lanes) (h : s.port.inFlight = some a) :
    AccessEnds s (.memoryResponse a.tag (.OK data)) a (.OK data) { s.port with inFlight := none, timer := 0 }
  | err (a : Access) (h : s.port.inFlight = some a) :
    AccessEnds s (.memoryResponse a.tag .ERR) a (.FAILED .ERR) { s.port with inFlight := none, timer := 0 }
  | limit (a : Access) (h : s.port.inFlight = some a) (t : 200 ≤ s.port.timer) :
    AccessEnds s .memoryResponseLimit a (.FAILED .NO_RESPONSE)
      { s.port with inFlight := none, timer := 0, owed := s.port.owed.set a.tag.toNat true a.tag.isLt }

/-- A held request refused at a re-evaluation: ERR at the host port, and the refusal handed to the report unit (R86, R88). -/
def refusedHeld (job : HostJob) (reason : Reason) (region : Option RegionNo) (s : State) : State :=
  logRefusal (opKind job.op) job.addr job.size reason region
    { s with host := none, responses := s.responses ++ [{ status := .ERR, data := [], tag := job.tag, reason := some reason }] }

/-- A held WRITE that enters the queue at a re-evaluation: the host is answered OK and the meter unit told (R88, R91, R92). -/
def postedHeld (job : HostJob) (data : Lanes) (cls : WriteClass) (region : Option RegionNo) (s : State) : State :=
  { s with
    host := none
    responses := s.responses ++ [{ status := .OK, data := [], tag := job.tag, reason := none }]
    queue := s.queue ++ [{ addr := job.addr, size := job.size, data := (data.toList.drop (job.addr.toNat % 4)).take (sizeBytes job.size)
                           cls := cls, region := region, epochTag := s.retention.header.epoch + 1, inFlight := false }]
    meters := (meterCount region job.size s).meters }

/-- The address and size of a request pass check 2 (R79), in a state that check 1 lets pass (R78). -/
structure PassesCheck2 (s : State) (job : HostJob) : Prop where
  state : s.ctl.state = .OPEN ∨ s.ctl.state = .DRAINING ∨ s.ctl.state = .ROLLBACK
  aligned : job.addr.toNat % sizeBytes job.size = 0

/-- A held WRITE that checks 1 to 5 now let pass (R78 to R82). -/
structure HeldWritePasses (s : State) (job : HostJob) (data : Lanes) : Prop where
  op : job.op = .WRITE data
  state : s.ctl.state = .OPEN
  room : s.queue.length < 8
  aligned : job.addr.toNat % sizeBytes job.size = 0
  check4 : PassesCheck4 s (governingRegion s (lineOf job.addr))

/-- What the re-evaluation of a held request makes of the state: every check again from the first, with the region now found (R77 to R88). A
request held again keeps its deadline; the others end the hold. -/
inductive Reevaluated (s : State) (job : HostJob) : State → Prop where
  | off (h : s.ctl.state = .OFF) : Reevaluated s job
      { s with host := none, responses := s.responses ++
        [{ status := .ERR, data := [], tag := job.tag, reason := some (if s.supply = .RUN then .RESET else .POWER) }] }
  | recovering (h : s.ctl.state = .RECOVERY) : Reevaluated s job (refusedHeld job .RECOVERING job.region s)
  | stalled (h : s.ctl.state = .STALLED) : Reevaluated s job (refusedHeld job .STALLED job.region s)
  | misaligned (h : s.ctl.state = .OPEN ∨ s.ctl.state = .DRAINING ∨ s.ctl.state = .ROLLBACK) (a : job.addr.toNat % sizeBytes job.size ≠ 0) :
    Reevaluated s job (refusedHeld job .ALIGN job.region s)
  | protect (i : RegionNo) (data : Lanes) (h : PassesCheck2 s job) (o : job.op = .WRITE data)
      (g : governingRegion s (lineOf job.addr) = some i) (k : (s.active.get i).kind = .READONLY) :
    Reevaluated s job (refusedHeld job .PROTECT (some i) s)
  | tripped (i : RegionNo) (data : Lanes) (h : PassesCheck2 s job) (o : job.op = .WRITE data)
      (g : governingRegion s (lineOf job.addr) = some i) (k : (s.active.get i).kind ≠ .READONLY) (r : (s.meters.get i).trip = .TRIPPED) :
    Reevaluated s job (refusedHeld job .TRIPPED (some i) s)
  | readHeld (h : PassesCheck2 s job) (o : job.op = .READ) (st : s.ctl.state = .ROLLBACK) :
    Reevaluated s job { s with host := some { job with region := governingRegion s (lineOf job.addr) } }
  | writeHeld (data : Lanes) (h : PassesCheck2 s job) (o : job.op = .WRITE data) (p : PassesCheck4 s (governingRegion s (lineOf job.addr)))
      (q : s.ctl.state = .OPEN → 8 ≤ s.queue.length) :
    Reevaluated s job { s with host := some { job with region := governingRegion s (lineOf job.addr) } }
  | readGoes (h : PassesCheck2 s job) (o : job.op = .READ) (st : s.ctl.state ≠ .ROLLBACK) :
    Reevaluated s job { s with host := some { job with
      stage := if s.queue.any (fun e => lineOf e.addr == lineOf job.addr) then .HAZARD else .PORT_WAIT
      region := governingRegion s (lineOf job.addr) } }
  | posted (data : Lanes) (h : HeldWritePasses s job data)
      (k : ∀ i, governingRegion s (lineOf job.addr) = some i → (s.active.get i).kind ≠ .GUARDED) :
    Reevaluated s job (postedHeld job data .PASS (governingRegion s (lineOf job.addr)) s)
  | proceeds (i : RegionNo) (data : Lanes) (h : HeldWritePasses s job data) (g : governingRegion s (lineOf job.addr) = some i)
      (k : (s.active.get i).kind = .GUARDED) (x : (indexLookup s (lineOf job.addr)).isSome = true) :
    Reevaluated s job (postedHeld job data .GUARDED (some i) s)
  | full (i : RegionNo) (data : Lanes) (h : HeldWritePasses s job data) (g : governingRegion s (lineOf job.addr) = some i)
      (k : (s.active.get i).kind = .GUARDED) (x : indexLookup s (lineOf job.addr) = none) (c : 256 ≤ s.retention.header.count) :
    Reevaluated s job (setEvent .JFULL (refusedHeld job .FULL (some i) s))
  | captures (i : RegionNo) (data : Lanes) (k : SlotNo) (h : HeldWritePasses s job data)
      (g : governingRegion s (lineOf job.addr) = some i) (u : (s.active.get i).kind = .GUARDED)
      (x : indexLookup s (lineOf job.addr) = none) (c : s.retention.header.count < 256) (f : lowestFree s.retention = some k) :
    Reevaluated s job
      { s with
        host := some { job with stage := .CAPTURING, region := some i }
        capture := some { stage := .ALLOCATING, slot := k, line := lineOf job.addr, region := i, addr := job.addr, size := job.size
                          data := (data.toList.drop (job.addr.toNat % 4)).take (sizeBytes job.size), words := [], failure := none }
        writes := s.writes ++ [.ALLOCATION] }

/-- The change to DRAINING at the take of a commit: the auto-commit timer stops, and a held request is evaluated again (R36, R88). -/
def drainBegun (s : State) : State := reevaluate { s with ctl := { s.ctl with state := .DRAINING, autoTimer := none } }

/-- A commit request and what follows from it at once, by the epoch state in which it arrives (R29, R31, R36 to R39, R55), with the link's
result. -/
inductive CommitTaken (s : State) : State → LinkResult → Prop where
  | drains (h : s.ctl.state = .OPEN) (d : isDrained s = false) : CommitTaken s (drainBegun s) .DONE
  | seals (h : s.ctl.state = .OPEN) (d : isDrained s = true) (f : s.ctl.faulted = false)
      (e : s.retention.header.state ≠ .SEALED) (w : s.writes = []) : CommitTaken s { drainBegun s with writes := [.SEAL] } .DONE
  | fails (h : s.ctl.state = .OPEN) (d : isDrained s = true) (f : s.ctl.faulted = true)
      (e : s.retention.header.state = .EMPTY ∨ s.retention.header.state = .OPEN) (w : s.writes = []) :
    CommitTaken s
      { reevaluate { drainBegun s with ctl := { s.ctl with state := .ROLLBACK, cause := some .FAULT, autoTimer := none } } with
        writes := [.MARK] } .DONE
  | queued (h : s.ctl.state = .DRAINING ∨ s.ctl.state = .ROLLBACK) :
    CommitTaken s { s with ctl := { s.ctl with pendingCommit := true } } .QUEUED
  | ignored (h : s.ctl.state = .RECOVERY ∨ s.ctl.state = .STALLED ∨ s.ctl.state = .OFF) : CommitTaken s s .STATE

/-- An expiry that is due: the command that carries it, and the timer that has run out (R32, R33, R75, R87, R114, R154, R159). -/
inductive ExpiryDue (s : State) : Instr → Prop where
  | mark (h : s.mark = .QUALIFIED) : ExpiryDue s .markRequest
  | reset (h : s.rst = .QUALIFIED) (p : s.supply ≠ .BACKUP) : ExpiryDue s .rstAssert
  | response (a : Access) (h : s.port.inFlight = some a) (t : 200 ≤ s.port.timer) : ExpiryDue s .memoryResponseLimit
  | hold (job : HostJob) (h : s.host = some job) (t : job.stage = .HELD (some 0)) : ExpiryDue s .holdDeadline
  | auto (h : s.ctl.autoTimer = some 0) : ExpiryDue s .autoCommitExpiry
  | window (r : isRunning s = true) (t : s.window.length * 1000 ≤ s.window.elapsed) : ExpiryDue s .windowBoundary
  | settle (n : Nat) (h : s.supply = .SETTLING) (r : s.settle = .RUNNING n) (t : 20000 ≤ n) : ExpiryDue s .settleTimerExpiry

/-- The tag of the request that a step takes at the host port: the command in front is a HOST_REQUEST, the port is powered, and it is not
BUSY (R72, R73, R158). -/
def requestTaken (s : State) : Option Tag :=
  match s.pending with
  | .hostRequest _ _ _ tag :: _ => if s.supply = .BACKUP ∨ (isRunning s = true ∧ s.host.isSome = true) then none else some tag
  | _ => none

/-- What a retention write makes of the store: exactly the change that its rule gives, with the values the blocks hold (R2, R10 to R15,
R39). A capture's write is asked for by a capture; were there none, the write would change nothing. -/
inductive WriteMade (s : State) : RetentionWrite → Retention → Prop where
  | allocation (job : CaptureJob) (h : s.capture = some job) : WriteMade s .ALLOCATION (allocationWrite job.line job.region s.retention)
  | completion (job : CaptureJob) (h : s.capture = some job) :
    WriteMade s .COMPLETION (completionWrite job.slot (imageOfWords job.words) s.retention)
  | release (job : CaptureJob) (h : s.capture = some job) : WriteMade s .RELEASE (releaseWrite job.slot s.retention)
  | noCapture (w : RetentionWrite) (hw : w = .ALLOCATION ∨ w = .COMPLETION ∨ w = .RELEASE) (h : s.capture = none) :
    WriteMade s w s.retention
  | sealing : WriteMade s .SEAL (sealWrite s.uptime.ms s.retention)
  | clear : WriteMade s .CLEAR (clearWrite s.retention)
  | mark : WriteMade s .MARK (unwindingMark (markCause s) s.retention)
  | retire : WriteMade s .RETIRE (retireWrite (unwindKind s) s.restore.restored s.uptime.ms s.retention)
  | finish : WriteMade s .FINISH (finishWrite (unwindKind s) s.restore.restored s.uptime.ms s.retention)
  | discard : WriteMade s .DISCARD (discardWrite s.uptime.ms s.retention)
  | bootCount : WriteMade s .BOOT_COUNT (bootCountWrite s.retention)
  | initialisation : WriteMade s .INITIALISATION (initialisationWrite s.retention)

/-- The command that is the end of a retention write. -/
def endRow : RetentionWrite → Instr
  | .ALLOCATION => .allocationWriteEnd
  | .COMPLETION => .completionWriteEnd
  | .RELEASE => .releaseWriteEnd
  | .SEAL => .sealWriteEnd
  | .CLEAR => .clearWriteEnd
  | .MARK => .unwindingMarkEnd
  | .RETIRE => .retireWriteEnd
  | .FINISH => .finishWriteEnd
  | .DISCARD => .discardWriteEnd
  | .BOOT_COUNT => .bootCountWriteEnd
  | .INITIALISATION => .initialisationWriteEnd

/-- A command that stops the part, and VDD does not fall on to the switch-over with VBK too low (R157, R159). -/
def StopsPart (c : Instr) : Prop := c = .vddFail ∨ c = .vddSwitchOver false ∨ c = .rstAssert

/-- Retention writes made one after another, each whole, from one content of the store to another (R1). -/
inductive WritesMade (s : State) : List RetentionWrite → Retention → Retention → Prop where
  | none (r : Retention) : WritesMade s [] r r
  | next (w : RetentionWrite) (ws : List RetentionWrite) (r r' r'' : Retention) (m : WriteMade { s with retention := r } w r')
      (h : WritesMade s ws r' r'') : WritesMade s (w :: ws) r r''

/-- The store as a stop leaves it: as the writes that have begun make it, one after another, and as it was where none had (R1). How many of
those asked for have begun is free (log 8), but one that waited behind another has begun when that one ended (R1, R20). -/
def StoreAtStop (s : State) (store : Retention) : Prop :=
  WritesMade s (begunWrites s.writes (max (Config.writesBegun s.free) (if s.writeBegun then 1 else 0))) s.retention store

/-- The committed epoch number after a write (R4, section 1.5). -/
def epochAfter (e : EpochNo) (w : RetentionWrite) : EpochNo :=
  if w = .SEAL then e + 1 else if w = .INITIALISATION then 0 else e

/-- The retention store after a command, where it may change, with the retention writes made: the command is the end of the write in
progress, and the store is what that write makes of it; or it stops the part, and the writes that had begun are made (R1, log 8); or the
store loses its hold in BACKUP (R155, R156). -/
inductive RetentionChange (s : State) : Instr → List RetentionWrite → Retention → Prop where
  | ended (w : RetentionWrite) (r : Retention) (h : s.writes.head? = some w) (m : WriteMade s w r) :
    RetentionChange s (endRow w) [w] r
  | stopped (c : Instr) (ws : List RetentionWrite) (r : Retention) (hc : StopsPart c)
      (h : ws = begunWrites s.writes (max (Config.writesBegun s.free) (if s.writeBegun then 1 else 0)))
      (m : WritesMade s ws s.retention r) : RetentionChange s c ws r
  | lost (c : Instr) (r : Retention) (h : c = .vddSwitchOver true ∨ c = .vbkLow ∨ c = .firstPower)
      (l : r.latch = false) : RetentionChange s c [] r

/-- Slot k is taken: FILLING or COMPLETE (R3, R5). -/
def Taken (r : Retention) (k : SlotNo) : Prop := (r.slots.get k).state ≠ .FREE

/-- The fixed shape of the journal (R3, R5, R6, R7): slots 0 to count-1 are the taken ones and slot k carries sequence k; outside an unwind
the next sequence is the count, 0 for 256; no line is held twice; a FREE slot is zero; an image stands in a COMPLETE slot alone; an EMPTY
header counts 0; an unwind cause stands in an UNWINDING header alone. -/
structure JournalShape (r : Retention) : Prop where
  dense : ∀ k, Taken r k ↔ k.val < r.header.count
  bound : r.header.count ≤ 256
  free : ∀ k, ¬ Taken r k → r.slots.get k = { state := .FREE, line := 0, region := 0, seq := 0, image := none }
  seq : ∀ k, Taken r k → (r.slots.get k).seq = BitVec.ofNat 8 k.val
  next : r.header.state ≠ .UNWINDING → r.header.nextSeq = BitVec.ofNat 8 r.header.count
  distinct : ∀ j k, Taken r j → Taken r k → (r.slots.get j).line = (r.slots.get k).line → j = k
  image : ∀ k, (r.slots.get k).image.isSome = true ↔ (r.slots.get k).state = .COMPLETE
  empty : r.header.state = .EMPTY → r.header.count = 0
  cause : r.header.cause.isSome = true ↔ r.header.state = .UNWINDING

/-- The epoch state as the journal sees it: a stall counts as the state it left (R30). -/
def journalState (s : State) : EpochState := if s.ctl.state = .STALLED then stateOfOrigin s.ctl.stallOrigin else s.ctl.state

/-- The slot of a capture: FILLING, for its line, the newest one (R6, R10, R18). -/
def Filled (s : State) (job : CaptureJob) : Prop :=
  (s.retention.slots.get job.slot).state = .FILLING ∧ (s.retention.slots.get job.slot).line = job.line ∧
    job.slot.val + 1 = s.retention.header.count

/-- The slot of a capture before its allocation is the lowest FREE one, and no taken slot names its line (R6, R7, R16). -/
def NewLine (s : State) (job : CaptureJob) : Prop :=
  job.slot.val = s.retention.header.count ∧ ∀ k, Taken s.retention k → (s.retention.slots.get k).line ≠ job.line

/-- The host request in progress waits for the capture (R85). -/
def HostCaptures (s : State) : Prop := ∃ req, s.host = some req ∧ req.stage = .CAPTURING

/-- Where a capture stands: its stage, the retention writes it has asked for, its slot, its words, its read and its host write (R17 to R20).
-/
inductive CapturePhase (s : State) (job : CaptureJob) : Prop where
  | allocating (st : job.stage = .ALLOCATING) (w : s.writes = [.ALLOCATION]) (n : NewLine s job) (e : job.words = []) (h : HostCaptures s)
  | waiting (st : job.stage = .WAITING) (w : s.writes = []) (f : Filled s job) (e : job.words = []) (h : HostCaptures s)
  | reading (st : job.stage = .READING) (w : s.writes = []) (g : s.arbiter.grant = some .CAPTURE) (f : Filled s job)
      (e : job.words.length < 8) (h : HostCaptures s)
  | completing (st : job.stage = .READING) (w : s.writes = [.COMPLETION]) (g : s.arbiter.grant ≠ some .CAPTURE) (f : Filled s job)
      (e : job.words.length = 8) (h : HostCaptures s)
  | failing (st : job.stage = .READING) (w : s.writes = [.RELEASE]) (g : s.arbiter.grant ≠ some .CAPTURE) (f : Filled s job)
      (e : job.words.length < 8) (h : HostCaptures s)
  | abandonedEarly (st : job.stage = .ABANDONING) (o : s.ctl.state = .ROLLBACK) (w : s.writes = [.ALLOCATION, .RELEASE]) (n : NewLine s job)
      (e : job.words = []) (h : HostCaptures s)
  | abandoned (st : job.stage = .ABANDONING) (o : s.ctl.state = .ROLLBACK) (w : s.writes = [.RELEASE]) (f : Filled s job)
      (e : job.words.length < 8) (h : HostCaptures s)
  | released (st : job.stage = .ABANDONING) (o : s.ctl.state = .ROLLBACK) (w : s.writes = []) (e : job.words.length < 8)
      (f : (s.retention.slots.get job.slot).state ≠ .FILLING)

/-- What works on the journal, one thing at a time: nothing, a capture, a seal, a mark, a clear, or an unwind at its newest slot. In all but
the first two the queue is empty and no capture runs: the queue is empty while the header is SEALED or UNWINDING (R3, R22, R37, R56, R58).
-/
inductive Work (s : State) : Prop where
  | idle (p : s.ctl.state = .OPEN ∨ s.ctl.state = .DRAINING ∨ s.ctl.state = .ROLLBACK) (c : s.capture = none) (w : s.writes = [])
      (r : s.restore.state = .IDLE) (h : s.retention.header.state = .EMPTY ∨ s.retention.header.state = .OPEN)
  | capturing (job : CaptureJob) (p : s.ctl.state = .OPEN ∨ s.ctl.state = .DRAINING ∨ s.ctl.state = .ROLLBACK) (c : s.capture = some job)
      (r : s.restore.state = .IDLE) (h : s.retention.header.state = .EMPTY ∨ s.retention.header.state = .OPEN)
      (l : job.line = lineOf job.addr) (x : CapturePhase s job)
  | sealing (p : s.ctl.state = .DRAINING) (q : s.queue = []) (c : s.capture = none) (r : s.restore.state = .IDLE) (w : s.writes = [.SEAL])
      (h : s.retention.header.state = .EMPTY ∨ s.retention.header.state = .OPEN)
  | clearing (p : s.ctl.state = .DRAINING ∨ s.ctl.state = .RECOVERY) (q : s.queue = []) (c : s.capture = none) (r : s.restore.state = .IDLE)
      (w : s.writes = [.CLEAR]) (h : s.retention.header.state = .SEALED)
  | marking (p : s.ctl.state = .ROLLBACK ∨ s.ctl.state = .RECOVERY) (q : s.queue = []) (c : s.capture = none) (r : s.restore.state = .IDLE)
      (w : s.writes = [.MARK]) (h : s.retention.header.state = .EMPTY ∨ s.retention.header.state = .OPEN)
  | restoring (k : SlotNo) (q : s.queue = []) (c : s.capture = none) (h : s.retention.header.state = .UNWINDING)
      (p : (s.ctl.state = .ROLLBACK ∨ s.ctl.state = .RECOVERY) ∧ (s.restore.state = .WAITING ∨ s.restore.state = .WRITING) ∨
        s.ctl.state = .STALLED ∧ s.restore.state = .HALTED)
      (w : s.writes = [] ∨ s.writes = [.DISCARD]) (cur : s.restore.slot = some k) (new : k.val + 1 = s.retention.header.count)
      (full : (s.retention.slots.get k).state = .COMPLETE) (n : s.restore.restored + s.retention.header.count ≤ 256)
  | retiring (x : RetentionWrite) (q : s.queue = []) (c : s.capture = none) (h : s.retention.header.state = .UNWINDING)
      (p : s.ctl.state = .ROLLBACK ∨ s.ctl.state = .RECOVERY) (r : s.restore.state = .RETIRING)
      (k : x = .RETIRE ∧ 1 ≤ s.retention.header.count ∧ s.restore.restored + s.retention.header.count ≤ 257 ∨
        x = .FINISH ∧ s.retention.header.count = 0)
      (w : s.writes = [x] ∨ s.writes = [.DISCARD, x])

/-- What ties the journal to the blocks of a running part: the store is trusted (R156); the index holds exactly the taken slots, but for a
recovery, which finds it empty (R9); but for a recovery a FILLING slot is the capture's (R8, R18); a queued GUARDED write has a COMPLETE
slot for its line (R16, R92); the queue has room for the write whose capture runs (R82, R91); one entry at most is in flight, the head,
while the queue holds the grant (R93); a grant to a host read has its read (R96); an unmarked rollback has its cause (R51) and a stall its
origin (R30). -/
structure EpochLaw (s : State) : Prop where
  latch : s.retention.latch = true
  indexed : s.index.Nodup ∧ ∀ p ∈ s.index, Taken s.retention p.2 ∧ (s.retention.slots.get p.2).line = p.1
  complete : journalState s ≠ .RECOVERY → ∀ k, Taken s.retention k → ((s.retention.slots.get k).line, k) ∈ s.index
  filling : journalState s ≠ .RECOVERY → ∀ k, (s.retention.slots.get k).state = .FILLING → ∃ job, s.capture = some job ∧ job.slot = k
  guarded : ∀ e ∈ s.queue, e.cls = .GUARDED →
    ∃ k, (s.retention.slots.get k).state = .COMPLETE ∧ (s.retention.slots.get k).line = lineOf e.addr
  work : Work s
  room : s.queue.length ≤ 8 ∧ (HostCaptures s → s.queue.length ≤ 7)
  flight : (∀ e ∈ s.queue.tail, e.inFlight = false) ∧ (s.arbiter.grant ≠ some .QUEUE_HEAD → ∀ e ∈ s.queue, e.inFlight = false)
  read : s.arbiter.grant = some .HOST_READ → ∃ req, s.host = some req ∧ req.stage = .AT_MEMORY
  cause : s.ctl.state = .ROLLBACK → s.retention.header.state ≠ .UNWINDING → s.ctl.cause.isSome = true
  origin : s.ctl.state = .STALLED → s.ctl.stallOrigin.isSome = true

/-- The law of the journal over steps: a trusted store has its fixed shape (R6, R7), a running part ties its blocks to it, a restart's write
waits with the index empty, and the two counters stay in range (R50, R98). With JournalShape and EpochLaw it bounds the count (R3), the
words of a capture (R17), the queue (R91), the restored count (R50) and the host-side count (R98). -/
structure JournalLaw (s : State) : Prop where
  journal : s.retention.latch = true → JournalShape s.retention
  running : isRunning s = true → EpochLaw s
  restart : ∀ w ∈ s.writes, isRestartWrite w = true → s.index = [] ∧ s.supply ≠ .FAILING ∧ s.supply ≠ .BACKUP
  boot : .BOOT_COUNT ∈ s.writes → s.retention.latch = true
  turns : s.arbiter.hostCount ≤ 4
  restored : s.restore.restored ≤ 256

/-- Region i's active entry is not OFF and the line lies between its base and its limit, both included (R102). -/
def CoversLine (s : State) (line : Line) (i : RegionNo) : Prop :=
  (s.active.get i).kind ≠ .OFF ∧ (s.active.get i).base.toNat ≤ line.toNat ∧ line.toNat ≤ (s.active.get i).limit.toNat

/-- A request refused at its first evaluation: ERR at the host port, the refusal handed to the report unit, the port still IDLE (R86). -/
def refusedAtOnce (op : HostOp) (addr : Addr) (size : Size) (tag : Tag) (reason : Reason) (region : Option RegionNo) (s : State) :
    State :=
  arbitrate (logRefusal (opKind op) addr size reason region
    { s with responses := s.responses ++ [{ status := .ERR, data := [], tag := tag, reason := some reason }] })

/-- The bytes of a number, most significant first (section 0.6.5). -/
def be2 (n : Nat) : List Nat := [n / 256 % 256, n % 256]

/-- Three bytes, most significant first (section 0.6.5). -/
def be3 (n : Nat) : List Nat := [n / 65536 % 256, n / 256 % 256, n % 256]

/-- Four bytes, most significant first (section 0.6.5). -/
def be4 (n : Nat) : List Nat := [n / 16777216 % 256, n / 65536 % 256, n / 256 % 256, n % 256]

/-- A mark or a flag in a byte: 0x01 set, 0x00 clear (R187). -/
def flag1 (b : Bool) : Nat := if b then 1 else 0

/-- The port with an access issued (R74). -/
def issued (s : State) (tag : Tag) (kind : RequestKind) (addr : Addr) (size : Size) (data : List Byte) : MemoryPort :=
  { inFlight := some { kind := kind, addr := addr, size := size, data := data, tag := tag }, timer := 0, nextTag := tag + 1
    owed := s.port.owed }

/-- The release write has ended and the host is answered ERR with the tag and the reason given; the capture record still stands (R12, R19,
R20). -/
def slotReleased (k : SlotNo) (tag : Tag) (reason : Reason) (s : State) : State :=
  { s with
    retention := { s.retention with
      header := { s.retention.header with count := s.retention.header.count - 1, nextSeq := s.retention.header.nextSeq - 1 }
      slots := s.retention.slots.set k.val { state := .FREE, line := 0, region := 0, seq := 0, image := none } k.isLt }
    index := s.index.filter (fun e => e.2 != k)
    writes := s.writes.tail, writeBegun := !s.writes.tail.isEmpty
    host := none
    responses := s.responses ++ [{ status := .ERR, data := [], tag := tag, reason := some reason }] }

/-- The retention store with the unwind of s ended: the header EMPTY with no cause and next sequence 0, the outcome of epoch E+1 with the
restored count appended (R15, R44, R61, R65). -/
def unwindFinished (s : State) (r : Retention) : Retention :=
  { r with
    header := { r.header with state := .EMPTY, nextSeq := 0, cause := none }
    history := appendOutcome
      { epoch := s.retention.header.epoch + 1, kind := unwindKind s, entries := s.restore.restored
        boot := s.retention.header.boot, uptime := s.uptime.ms } r.history }

/-- Region i trips at a window boundary taken now: metered, CLEAR, above its write limit, one strike short of its qualify value (R118,
R120). -/
def Trips (s : State) (i : RegionNo) : Prop :=
  isMetered (s.active.get i) = true ∧ (s.meters.get i).trip = .CLEAR ∧ (s.meters.get i).count > (s.active.get i).writeLimit ∧
    (s.meters.get i).strikes + 1 = (s.active.get i).qualify

/-- The part stopped, with the request in progress answered ERR for the reason given (R157, R159, R164), and the store as the stop leaves it
(R1). -/
def stoppedBy (store : Retention) (reason : Reason) (s : State) : State :=
  { s with
    retention := store
    host := none
    responses := s.responses ++ (s.host.map fun job =>
      ({ status := .ERR, data := [], tag := job.tag, reason := some reason } : HostResponse)).toList
    writes := [], writeBegun := false, capture := none, queue := []
    port := { inFlight := none, timer := if s.port.inFlight.isSome then 0 else s.port.timer, nextTag := s.port.nextTag
              owed := match s.port.inFlight with
                | some a => s.port.owed.set a.tag.toNat true a.tag.isLt
                | none => s.port.owed }
    arbiter := { s.arbiter with grant := none }
    ctl := { s.ctl with state := .OFF, autoTimer := none }
    restore := { state := .IDLE, slot := none, word := 0, attempt := 1, restored := 0 }
    link := if s.link.state = .IDLE then s.link else { idleLink with state := .PASSED }
    rst := if s.rst = .QUALIFYING ∨ s.rst = .QUALIFIED then .LOW else s.rst
    mark := if s.mark = .LOW then .LOW else .HIGH
    events := { s.events with alert := .RELEASED } }

/-- The part unpowered in BACKUP: the store, the levels of the lines and the model's own fields stand, every volatile block holds what a
restart gives it, the controller OFF (R25, R76, R158, section 9.7; log 9). -/
def unpowered (s : State) : State :=
  { State.reset with
    retention := s.retention
    ctl := { state := .OFF, faulted := false, pendingCommit := false, autoTimer := none, stallOrigin := none, cause := none }
    events := { flags := 0, enables := 0, alert := .RELEASED }
    supply := .BACKUP, resetInForce := s.resetInForce
    rst := if s.rst = .QUALIFYING ∨ s.rst = .QUALIFIED then .LOW else s.rst
    mark := if s.mark = .LOW then .LOW else .HIGH
    link := if s.link.state = .IDLE then idleLink else { idleLink with state := .PASSED }
    responses := s.responses, free := s.free, pending := s.pending }

/-- The retention store has lost its hold: its content is the free value, its latch clear (R155, R156, log 6). -/
def storeLost (s : State) : State :=
  { s with retention := { Config.lostStore s.free with latch := false }, free := s.free + 1 }

/-- The two events at which a restart begins, with RST# as it is then (R160, log 12): the settle time with RST# not held low (log 11), and
the release of an asserted RST# with the supply RUN or the settle time already passed. -/
inductive RestartBegins (s : State) : Instr → ResetLine → Prop where
  | settled (n : Nat) (h : s.supply = .SETTLING) (t : s.settle = .RUNNING n) (d : 20000 ≤ n)
      (r : s.rst ≠ .ASSERTED ∧ s.rst ≠ .LOW) :
    RestartBegins s .settleTimerExpiry s.rst
  | released (r : s.rst = .ASSERTED) (h : s.supply = .RUN ∧ s.resetInForce = true ∨ s.supply = .SETTLING ∧ s.settle = .EXPIRED) :
    RestartBegins s .rstRelease .HIGH

/-- The part at step 5 of a warm restart, its controller in RECOVERY: volatile state as State.reset has it, but for the flags; the store as
it stood, with B one higher (R2, R26, R143, R161). -/
def warmStart (s : State) (rst : ResetLine) : State :=
  { State.reset with
    retention := { s.retention with header := { s.retention.header with boot := s.retention.header.boot + 1 } }
    port := { inFlight := none, timer := 0, nextTag := s.port.nextTag, owed := s.port.owed }
    ctl := { state := .RECOVERY, faulted := false, pendingCommit := false, autoTimer := none, stallOrigin := none, cause := none }
    events := { flags := 0, enables := 0, alert := .RELEASED }
    rst := rst, mark := s.mark, link := s.link, responses := s.responses, free := s.free, pending := s.pending }

end Sys2Proof.Machine
end

