-- ==== Sys2Proof/WellFormed.lean ====
section
/-! DEFINITION. Which commands are well formed. Every operand type holds exactly the values its field can carry, so one check
remains: an UNKNOWN_CODE row carries a code that names no command. -/

namespace Sys2Proof

/-- A command that the part's lines can carry: an unknown code is a code that 11.2's table does not list (R174). -/
def Instr.wf : Instr → Bool
  | .unknownCode code => (paramCount code).isNone
  | _ => true

end Sys2Proof
end

