-- ==== Sys2Proof/Certificates/Slice0/Obligations.lean ====
section
/-! DEFINITION. The statements for the provers. Results are equations: what an equation does not change stays as it was. -/

section

open Sys2Proof Sys2Proof.Machine

/-! ### The machine as a whole -/

/-- A step takes the command at the front of the queue and carries it out on the state with the queue's rest. -/
def Obligations.StepRunsTheFrontCommand : Prop :=
  ∀ (c : Instr) (s : State), step { s with pending := c :: s.pending } = exec c s

/-- Every command completes in every state, and leaves the queue of waiting commands alone. That no row stops is the model's reading of the
manual (log 31), and that a row without its ground completes too is its choice (log 5). -/
def Obligations.WaitingCommandsAreKept : Prop :=
  ∀ (c : Instr) (s : State), ∃ t : State, exec c s = .next t ∧ t.pending = s.pending

/-- With no command waiting, a step is 1 us of the timebase: every running timer moves by one, nothing else changes but the queue and the
counter of free values (R32, R33, R74, R87, R114, R154, R158, R159, R164; that an idle step is 1 us is the model's choice, log 3). -/
def Obligations.IdleStepLetsOneMicrosecondPass : Prop :=
  ∀ s : State, s.pending = [] → ∃ t : State, step s = .next t ∧
    (isRunning s = true →
      t.uptime = (if s.uptime.us + 1 ≥ 1000 then { ms := s.uptime.ms + 1, us := 0 }
                  else { ms := s.uptime.ms, us := s.uptime.us + 1 }) ∧
      t.window = { length := s.window.length, elapsed := s.window.elapsed + 1 }) ∧
    (isRunning s = false → t.uptime = s.uptime ∧ t.window = s.window) ∧
    t.ctl = { s.ctl with autoTimer := s.ctl.autoTimer.map (fun n => n - 1) } ∧
    t.port = { s.port with timer := if s.port.inFlight.isSome then s.port.timer + 1 else s.port.timer } ∧
    (s.host = none → t.host = none) ∧
    (∀ job n, s.host = some job → job.stage = .HELD (some n) → t.host = some { job with stage := .HELD (some (n - 1)) }) ∧
    (∀ job, s.host = some job → (∀ n, job.stage ≠ .HELD (some n)) → t.host = some job) ∧
    (∀ n, s.supply = .SETTLING → s.settle = .RUNNING n → t.settle = .RUNNING (n + 1)) ∧
    (s.supply ≠ .SETTLING ∨ (∀ n, s.settle ≠ .RUNNING n) → t.settle = s.settle) ∧
    t.mark = (if s.mark = .QUALIFYING then .QUALIFIED else s.mark) ∧
    t.rst = (if s.rst = .QUALIFYING ∧ s.supply ≠ .BACKUP then .QUALIFIED else s.rst) ∧
    t = { s with
      uptime := t.uptime, window := t.window, ctl := t.ctl, port := t.port, host := t.host, settle := t.settle
      mark := t.mark, rst := t.rst
      free := t.free, pending := t.pending }

/-- After an idle step the queue holds exactly the expiries that are due, each once (R32, R33, R75, R87, R114, R154, R159); which order they
stand in is a free value, and every order is one of its choices (section 0.6.6, log 4). -/
def Obligations.DueExpiriesAreQueued : Prop :=
  (∀ s : State, s.pending = [] →
    ∃ t : State, step s = .next t ∧ t.pending.Nodup ∧ ∀ c, c ∈ t.pending ↔ ExpiryDue t c) ∧
  ∀ l l' : List Instr, l'.Perm l → ∃ n, orderOf n l = l'

/-- What the manual gives for a restart (R2, R26, R50, R99, R101, R105, R114, R116, R130, R143, R164, R178). -/
def Obligations.ResetValues : Prop :=
  State.reset.retention.header = { state := .EMPTY, epoch := 0, boot := 0, count := 0, nextSeq := 0, cause := none } ∧
  (∀ k, State.reset.retention.slots.get k = { state := .FREE, line := 0, region := 0, seq := 0, image := none }) ∧
  State.reset.retention.history = [] ∧ State.reset.retention.latch = true ∧
  State.reset.ctl = { state := .OPEN, faulted := false, pendingCommit := false, autoTimer := none, stallOrigin := none, cause := none } ∧
  State.reset.restore.state = .IDLE ∧ State.reset.restore.slot = none ∧ State.reset.restore.restored = 0 ∧
  State.reset.arbiter = { grant := none, hostCount := 0 } ∧
  (∀ i, State.reset.active.get i =
    { kind := .OFF, base := 0, limit := 0, metered := false, writeLimit := 1, qualify := 1, action := .REFUSE }) ∧
  (∀ i, (State.reset.staged.get i).entry = State.reset.active.get i ∧ (State.reset.staged.get i).touched = false) ∧
  (∀ i, State.reset.meters.get i = { count := 0, latch := 0, strikes := 0, trip := .CLEAR }) ∧
  State.reset.window = { length := 16, elapsed := 0 } ∧
  State.reset.report = { log := [], dropped := 0, nextSeq := 0, fault := none } ∧
  State.reset.events.enables = 0 ∧ State.reset.events.alert = .RELEASED ∧
  (∀ k, State.reset.events.flags.getLsbD k = true ↔ k = eventBit .RESTARTED ∨ k = eventBit .RETENTION_LOST) ∧
  State.reset.cfg = { windowCode := 4, holdCode := 5, highWater := 192, autoInterval := 0 } ∧
  State.reset.uptime = { ms := 0, us := 0 } ∧ State.reset.index = [] ∧ State.reset.capture = none ∧ State.reset.queue = []

/-- The state after reset meets the laws that steps keep. -/
def Obligations.ResetMeetsTheLaws : Prop := SupplyLaw State.reset ∧ RangeLaw State.reset ∧ JournalLaw State.reset

/-- Every step keeps the law of running and stopping (R25, R47, R73, R90, R95, R99, R151, R152, R157, R159, R161). -/
def Obligations.SupplyLawKept : Prop := ∀ s t : State, SupplyLaw s → step s = .next t → SupplyLaw t

/-- Every step keeps the tables, the meter records, the report unit, the configuration, the restore attempt, the outcome history, the
response timer and the link's bit count in their ranges (R45, R50, R74, R100, R116, R118, R130, R133, R138, R168, R178). The count of the
journal, the words of a capture, the queue, the restored count and the host-side count are JournalShapeKept's. -/
def Obligations.RangeLawKept : Prop := ∀ s t : State, RangeLaw s → step s = .next t → RangeLaw t

/-- Every request that the host port takes is answered exactly once, with its own tag, at a later step or at the same one: the answers that
a step gives and the request it leaves in progress are the request it found in progress and the one it took (R71, R72, R73). -/
def Obligations.OneAnswerPerRequest : Prop :=
  ∀ s t : State, SupplyLaw s → step s = .next t → ∃ given : List HostResponse, t.responses = s.responses ++ given ∧
    given.map (·.tag) ++ (t.host.map (·.tag)).toList = (s.host.map (·.tag)).toList ++ (requestTaken s).toList

/-- The retention store changes only by retention writes, each whole and in the way its rule gives, or by losing its hold: the write in
progress is made at its end, and those that have begun at a stop (R1, log 8). E rises by one at a seal, becomes 0 at an initialisation, and
stays otherwise (R1, R4, section 1.5). -/
def Obligations.RetentionChangesOnlyByItsWrites : Prop :=
  ∀ s t : State, step s = .next t → t.retention = s.retention ∨
    ∃ c rest ws, s.pending = c :: rest ∧ RetentionChange s c ws t.retention ∧
      (t.retention.latch = true → t.retention.header.epoch = ws.foldl epochAfter s.retention.header.epoch)

/-- The active table changes only at the end of a seal write, at the entry to BACKUP, where it is lost, and at a restart; the staged table
at a STAGE_REGION or CLEAR_STAGED take point too; the configuration, the enables and a set flag only at a take point, at the entry to BACKUP
and at a restart (R101, R105, R110, R143, R144, R147, R148, R158, R178, R179). -/
def Obligations.TablesAndSettingsChangeOnlyByRule : Prop :=
  ∀ (c : Instr) (s t : State), exec c s = .next t → c ≠ .settleTimerExpiry → c ≠ .rstRelease →
    c ≠ .firstPower → (∀ low, c ≠ .vddSwitchOver low) →
    (c ≠ .sealWriteEnd → t.active = s.active) ∧
    ((∀ mdi, c ≠ .mckRisingEdge mdi) →
      (c ≠ .sealWriteEnd → c ≠ .clearStaged → (∀ n k b l m w q a, c ≠ .stageRegion n k b l m w q a) → t.staged = s.staged) ∧
      ((∀ w h l n, c ≠ .setConfig w h l n) → t.cfg = s.cfg) ∧
      ((∀ e, c ≠ .setEnables e) → t.events.enables = s.events.enables) ∧
      (c ≠ .takeEvents → ∀ k, s.events.flags.getLsbD k = true → t.events.flags.getLsbD k = true))

/-! ### The frames of the management link -/

/-- Bytes are read as a command exactly when they are the frame of that command: no field of its parameters is dropped or moved, and no
frame has two meanings (R174, R185, section 11.2). -/
def Obligations.FrameRoundTrip : Prop :=
  ∀ (i : Instr) (code : Byte) (params : List Byte),
    i.wf = true ∧ frameBytes i = some (code :: params) ↔ parseFrame code params = some i

/-- Sending the whole frame of a command bit by bit, from its first bit on with nothing received yet, leaves the part as the command's row
does (R168, R169, R170, log 2). -/
def Obligations.EdgesCarryTheCommand : Prop :=
  ∀ (i : Instr) (code : Byte) (params : List Byte) (s : State), i.wf = true → frameBytes i = some (code :: params) →
    isRunning s = true → s.link = present { idleLink with state := .RECEIVING } →
    ∃ t : State, exec i s = .next t ∧ runCommands ((bitsOfBytes (code :: params)).map .mckRisingEdge) s = some t

/-- In RESPONDING, after n more clocks MDO drives bit n of the answer, then zeros, and nothing but the link moves (R171). That MDO moves on
within the step of the rising edge is the model's choice (log 14): R167 moves it after the falling edge, which has no row. -/
def Obligations.AnswerIsClockedOut : Prop :=
  ∀ (s : State) (code : Byte) (params answer : List Byte) (mdis : List Bool), s.link = respondingLink code params answer →
    ∃ t : State, runCommands (mdis.map .mckRisingEdge) s = some t ∧
      t.link.mdo = some ((bitsOfBytes answer).getD mdis.length false) ∧ t = { s with link := t.link }

/-- MCS# and MCK outside a whole frame: a fall of MCS# begins a frame, taken while the part runs; an edge in RECEIVING that does not
complete a byte keeps its bit; in IDLE and PASSED an edge changes nothing; a rise ends the frame, and before its take point sets LINKERR
(R165, R167, R168, R169, R172, R173). -/
def Obligations.LinkLines : Prop :=
  ∀ s : State,
    (s.link.state = .IDLE → isRunning s = true →
      exec .mcsFall s = .next { s with link := { idleLink with state := .RECEIVING, mdo := some false } }) ∧
    (s.link.state = .IDLE → isRunning s = false → exec .mcsFall s = .next { s with link := { idleLink with state := .PASSED } }) ∧
    (s.link.state ≠ .IDLE → exec .mcsFall s = .next s) ∧
    (∀ mdi, s.link.state = .IDLE ∨ s.link.state = .PASSED → exec (.mckRisingEdge mdi) s = .next s) ∧
    (∀ mdi, s.link.state = .RECEIVING → s.link.bitCount < 7 →
      exec (.mckRisingEdge mdi) s = .next
        { s with link := { s.link with
            shift := s.link.shift <<< 1 ||| (BitVec.ofBool mdi).setWidth 8, bitCount := s.link.bitCount + 1, mdo := some false } }) ∧
    (s.link.state = .RECEIVING → exec .mcsRise s = .next (setEvent .LINKERR { s with link := idleLink })) ∧
    (s.link.state ≠ .RECEIVING → s.link.state ≠ .IDLE → exec .mcsRise s = .next { s with link := idleLink }) ∧
    (s.link.state = .IDLE → exec .mcsRise s = .next s)

/-- A link command whose frame is not in progress changes nothing, and a code that names a command has no UNKNOWN_CODE take point (R174; log
2, log 5: the model's reading of a row that cannot arise). -/
def Obligations.LinkCommandNeedsItsFrame : Prop :=
  (∀ (i : Instr) (s : State), (frameBytes i).isSome = true → ¬ FrameReady i s → exec i s = .next s) ∧
  ∀ (code : Byte) (s : State), (paramCount code).isSome = true → exec (.unknownCode code) s = .next s

/-! ### The host port and admission -/

/-- A request that the host port does not keep: in BACKUP it is not taken, while the part is stopped it is answered ERR at once and not
logged, in BUSY it is ignored (R72, R73, R158). -/
def Obligations.HostRequestNotKept : Prop :=
  ∀ (s : State) (op : HostOp) (addr : Addr) (size : Size) (tag : Tag),
    (s.supply = .BACKUP → exec (.hostRequest op addr size tag) s = .next s) ∧
    (s.supply ≠ .BACKUP → isRunning s = false →
      exec (.hostRequest op addr size tag) s = .next
        { s with responses := s.responses ++
          [{ status := .ERR, data := [], tag := tag, reason := some (if s.supply = .RUN then .RESET else .POWER) }] }) ∧
    (isRunning s = true → s.host.isSome = true → exec (.hostRequest op addr size tag) s = .next s)

/-- Check 1 refuses in RECOVERY and STALLED; check 4 refuses a WRITE to a READONLY region with PROTECT and to a TRIPPED one with TRIPPED,
before any reason to hold it (R77, R78, R81, R86). -/
def Obligations.HostRequestRefused : Prop :=
  ∀ (s : State) (op : HostOp) (addr : Addr) (size : Size) (tag : Tag), isRunning s = true → s.host = none →
    (s.ctl.state = .RECOVERY → exec (.hostRequest op addr size tag) s = .next (refusedAtOnce op addr size tag .RECOVERING none s)) ∧
    (s.ctl.state = .STALLED → exec (.hostRequest op addr size tag) s = .next (refusedAtOnce op addr size tag .STALLED none s)) ∧
    (∀ i data, PassesCheck1 s → addr.toNat % sizeBytes size = 0 → governingRegion s (lineOf addr) = some i → op = .WRITE data →
      ((s.active.get i).kind = .READONLY →
        exec (.hostRequest op addr size tag) s = .next (refusedAtOnce op addr size tag .PROTECT (some i) s)) ∧
      ((s.active.get i).kind ≠ .READONLY → (s.meters.get i).trip = .TRIPPED →
        exec (.hostRequest op addr size tag) s = .next (refusedAtOnce op addr size tag .TRIPPED (some i) s)))

/-- Check 2: a request that passes check 1 is refused with ALIGN, and no region, exactly when its address is not a multiple of its size, in
OPEN, DRAINING and ROLLBACK alike (R79). -/
def Obligations.AlignmentIsChecked : Prop :=
  ∀ (s : State) (op : HostOp) (addr : Addr) (size : Size) (tag : Tag), PassesCheck1 s →
    (addr.toNat % sizeBytes size ≠ 0 →
      exec (.hostRequest op addr size tag) s = .next (refusedAtOnce op addr size tag .ALIGN none s)) ∧
    (addr.toNat % sizeBytes size = 0 → ∀ stage region,
      evaluate s { op := op, addr := addr, size := size, tag := tag, stage := stage, region := none } ≠ .REFUSE .ALIGN region) ∧
    (size = .one → addr.toNat % sizeBytes size = 0) ∧ (size = .two → (addr.toNat % sizeBytes size = 0 ↔ 2 ∣ addr.toNat)) ∧
    (size = .four → (addr.toNat % sizeBytes size = 0 ↔ 4 ∣ addr.toNat))

/-- Check 5 holds a WRITE in DRAINING and ROLLBACK and with 8 entries queued in OPEN, and a READ in ROLLBACK; the hold begins with the
deadline of the hold code in force (R82, R87). -/
def Obligations.HostRequestHeld : Prop :=
  (∀ (s : State) (op : HostOp) (addr : Addr) (size : Size) (tag : Tag), PassesCheck1 s → addr.toNat % sizeBytes size = 0 →
    (op = .READ ∧ s.ctl.state = .ROLLBACK ∨
      (∃ data, op = .WRITE data) ∧ PassesCheck4 s (governingRegion s (lineOf addr)) ∧ (s.ctl.state = .OPEN → 8 ≤ s.queue.length)) →
    exec (.hostRequest op addr size tag) s = .next (arbitrate
      { s with host := some { op := op, addr := addr, size := size, tag := tag, stage := .HELD (holdLimit s.cfg.holdCode)
                              region := governingRegion s (lineOf addr) } })) ∧
  List.ofFn holdLimit = [none, some 50, some 100, some 200, some 500, some 1000, some 2000, some 5000]

/-- A WRITE with no region, or with a region neither GUARDED nor refusing it, enters the queue as PASS with the open epoch's tag; the host
is answered OK and the meter unit told at the same event (R85, R91, R92): the count of a metered region rises by the size, stopping at
16,777,215 (R117). -/
def Obligations.HostWritePosted : Prop :=
  (∀ (s : State) (data : Lanes) (addr : Addr) (size : Size) (tag : Tag) (region : Option RegionNo), WritePasses s addr size region →
    (∀ i, region = some i → (s.active.get i).kind ≠ .GUARDED) →
    exec (.hostRequest (.WRITE data) addr size tag) s = .next (arbitrate
      { s with
        responses := s.responses ++ [{ status := .OK, data := [], tag := tag, reason := none }]
        queue := s.queue ++ [{ addr := addr, size := size, data := (data.toList.drop (addr.toNat % 4)).take (sizeBytes size)
                               cls := .PASS, region := region, epochTag := s.retention.header.epoch + 1, inFlight := false }]
        meters := (meterCount region size s).meters })) ∧
  ∀ (s : State) (size : Size), meterCount none size s = s ∧
    ∀ i : RegionNo,
      (isMetered (s.active.get i) = false → meterCount (some i) size s = s) ∧
      (isMetered (s.active.get i) = true →
        meterCount (some i) size s = { s with meters := (meterCount (some i) size s).meters } ∧
        (meterCount (some i) size s).meters.get i =
          { s.meters.get i with count := min ((s.meters.get i).count + sizeBytes size) 16777215 } ∧
        ∀ j, j ≠ i → (meterCount (some i) size s).meters.get j = s.meters.get j)

/-- The guarded-write decision: a line in the index goes on as GUARDED even with the journal full; a line not in it is refused FULL with 256
slots taken, and captured otherwise: no byte of it reaches the queue before its image is kept (R16, R18, R85, R134). -/
def Obligations.GuardedWriteDecision : Prop :=
  ∀ (s : State) (data : Lanes) (addr : Addr) (size : Size) (tag : Tag) (i : RegionNo), WritePasses s addr size (some i) →
    (s.active.get i).kind = .GUARDED →
    ((indexLookup s (lineOf addr)).isSome = true →
      exec (.hostRequest (.WRITE data) addr size tag) s = .next (arbitrate
        { s with
          responses := s.responses ++ [{ status := .OK, data := [], tag := tag, reason := none }]
          queue := s.queue ++ [{ addr := addr, size := size, data := (data.toList.drop (addr.toNat % 4)).take (sizeBytes size)
                                 cls := .GUARDED, region := some i, epochTag := s.retention.header.epoch + 1, inFlight := false }]
          meters := (meterCount (some i) size s).meters })) ∧
    (indexLookup s (lineOf addr) = none → 256 ≤ s.retention.header.count →
      exec (.hostRequest (.WRITE data) addr size tag) s = .next (arbitrate (setEvent .JFULL
        (logRefusal .WRITE addr size .FULL (some i)
          { s with responses := s.responses ++ [{ status := .ERR, data := [], tag := tag, reason := some .FULL }] })))) ∧
    (indexLookup s (lineOf addr) = none → s.retention.header.count < 256 → ∀ k, lowestFree s.retention = some k →
      exec (.hostRequest (.WRITE data) addr size tag) s = .next (arbitrate
        { s with
          host := some { op := .WRITE data, addr := addr, size := size, tag := tag, stage := .CAPTURING, region := some i }
          capture := some { stage := .ALLOCATING, slot := k, line := lineOf addr, region := i, addr := addr, size := size
                            data := (data.toList.drop (addr.toNat % 4)).take (sizeBytes size), words := [], failure := none }
          writes := s.writes ++ [.ALLOCATION] }))

/-- A READ in OPEN or DRAINING waits while the queue names its line, and asks for the port at once otherwise; its region does not refuse it
(R81, R82, R83). -/
def Obligations.HostReadGoes : Prop :=
  ∀ (s : State) (addr : Addr) (size : Size) (tag : Tag), isRunning s = true → s.host = none →
    s.ctl.state = .OPEN ∨ s.ctl.state = .DRAINING → addr.toNat % sizeBytes size = 0 →
    exec (.hostRequest .READ addr size tag) s = .next (arbitrate
      { s with host := some { op := .READ, addr := addr, size := size, tag := tag
                              stage := if s.queue.any (fun e => lineOf e.addr == lineOf addr) then .HAZARD else .PORT_WAIT
                              region := governingRegion s (lineOf addr) } })

/-- The lookup answers with the lowest-numbered active entry that is not OFF and covers the line, both ends included, or with none; the line
of an address is the address divided by 32, rounded down (R102). -/
def Obligations.LowestCoveringRegionGoverns : Prop :=
  (∀ addr : Addr, (lineOf addr).toNat = addr.toNat / 32) ∧
  ∀ (s : State) (line : Line),
    (∀ i, governingRegion s line = some i ↔ CoversLine s line i ∧ ∀ j, j < i → ¬ CoversLine s line j) ∧
    (governingRegion s line = none ↔ ∀ i, ¬ CoversLine s line i)

/-- A cause sets its flag and no other, whatever the enables, and ALERT# follows its law (R143, R144, R151). A refusal takes the next number
and is logged, or with 16 records in the log is discarded, counted up to 255 and flagged LOG_DROP (R130 to R133). A fault fills an empty
record with repeat count 0 or counts a standing one up to 255, and MEMFAULT is set either way (R137, R138). -/
def Obligations.EventsAndReportsAreTaken : Prop :=
  (∀ (s : State) (e : Event), AlertLaw (setEvent e s) ∧ (setEvent e s).events.enables = s.events.enables ∧
    (∀ k, (setEvent e s).events.flags.getLsbD k = true ↔ s.events.flags.getLsbD k = true ∨ k = eventBit e) ∧
    setEvent e s = { s with events := (setEvent e s).events }) ∧
  (∀ (s : State) (kind : RequestKind) (addr : Addr) (size : Size) (reason : Reason) (region : Option RegionNo),
    (s.report.log.length < 16 → logRefusal kind addr size reason region s =
      { s with report := { s.report with
          log := s.report.log ++ [{ seq := s.report.nextSeq, uptime := s.uptime.ms, kind := kind, addr := addr, size := size
                                    reason := reason, region := region, epoch := s.retention.header.epoch + 1 }]
          nextSeq := s.report.nextSeq + 1 } }) ∧
    (16 ≤ s.report.log.length → logRefusal kind addr size reason region s = setEvent .LOG_DROP
      { s with report := { s.report with dropped := min (s.report.dropped + 1) 255, nextSeq := s.report.nextSeq + 1 } })) ∧
  (∀ (s : State) (source : FaultSource) (cause : Cause) (addr : Addr) (epoch : EpochNo),
    (s.report.fault = none → recordFault source cause addr epoch s = setEvent .MEMFAULT
      { s with report := { s.report with
          fault := some { source := source, cause := cause, addr := addr, epoch := epoch, uptime := s.uptime.ms, repeats := 0 } } }) ∧
    (∀ f, s.report.fault = some f → recordFault source cause addr epoch s = setEvent .MEMFAULT
      { s with report := { s.report with fault := some { f with repeats := min (f.repeats + 1) 255 } } }))

/-- A hold ends at its deadline with HOLD_TIMEOUT, logged and flagged; with no hold, or a hold whose deadline has not come (log 23), the
deadline finds nothing (R87, R89, R134). A held request is evaluated again from the first check: held again it keeps its deadline and takes
the region found; else its hold ends, refused or let go on its way (R67, R77 to R88, R123). With no request held a re-evaluation finds
nothing. A read in a hazard wait asks for the port when no entry names its line (R83). -/
def Obligations.HoldsAndWaits : Prop :=
  (∀ (s : State) (job : HostJob), s.host = some job → job.stage = .HELD (some 0) →
    exec .holdDeadline s = .next (setEvent .HOLD_TIMEOUT
      (logRefusal (opKind job.op) job.addr job.size .HOLD_TIMEOUT job.region
        { s with host := none, responses := s.responses ++
            [{ status := .ERR, data := [], tag := job.tag, reason := some .HOLD_TIMEOUT }] }))) ∧
  (∀ s : State, (∀ job, s.host = some job → job.stage ≠ .HELD (some 0)) → exec .holdDeadline s = .next s) ∧
  (∀ (s t : State) (job : HostJob) (deadline : Option Nat), s.host = some job → job.stage = .HELD deadline → Reevaluated s job t →
    reevaluate s = t) ∧
  (∀ s : State, NoHold s → reevaluate s = s) ∧
  (∀ s : State, (∀ job, s.host = some job → job.stage ≠ .HAZARD) → endHazard s = s) ∧
  (∀ (s : State) (job : HostJob), s.host = some job → job.stage = .HAZARD →
    endHazard s = if s.queue.any (fun e => lineOf e.addr == lineOf job.addr) then s
      else { s with host := some { job with stage := .PORT_WAIT } })

/-! ### The memory port, its arbiter and the ends of accesses -/

/-- A response that names no access in flight only clears its tag's owed mark; in BACKUP the port is unpowered; the limit finds nothing
while no access is in flight, and nothing while the timer of the access in flight, issued since, has not reached it (R75, R158). -/
def Obligations.ResponseWithoutItsAccess : Prop :=
  ∀ (s : State) (tag : Tag) (answer : MemoryAnswer),
    (s.supply ≠ .BACKUP → (∀ a, s.port.inFlight = some a → a.tag ≠ tag) →
      exec (.memoryResponse tag answer) s = .next
        { s with port := { s.port with owed := s.port.owed.set tag.toNat false tag.isLt } }) ∧
    (s.supply = .BACKUP → exec (.memoryResponse tag answer) s = .next s) ∧
    (s.port.inFlight = none ∨ s.port.timer < 200 → exec .memoryResponseLimit s = .next s)

/-- A host read ends with its access: OK gives the host the lanes it moves; ERR and NO_RESPONSE give it ERR, a MEMORY refusal and a
HOST_READ fault of the open epoch (R75, R84, R86, R137). -/
def Obligations.HostReadEnds : Prop :=
  ∀ (s : State) (c : Instr) (a : Access) (r : PortResult) (port : MemoryPort) (job : HostJob), s.supply ≠ .BACKUP →
    AccessEnds s c a r port → s.arbiter.grant = some .HOST_READ → s.host = some job →
    (∀ data, r = .OK data → exec c s = .next (arbitrate
      { s with
        port := port, arbiter := { s.arbiter with grant := none }, host := none
        responses := s.responses ++ [{ status := .OK, data := (data.toList.drop (job.addr.toNat % 4)).take (sizeBytes job.size)
                                       tag := job.tag, reason := none }] })) ∧
    (∀ cause, r = .FAILED cause → exec c s = .next (arbitrate
      (recordFault .HOST_READ cause job.addr (s.retention.header.epoch + 1)
        (logRefusal (opKind job.op) job.addr job.size .MEMORY job.region
          { s with
            port := port, arbiter := { s.arbiter with grant := none }, host := none
            responses := s.responses ++ [{ status := .ERR, data := [], tag := job.tag, reason := some .MEMORY }] }))))

/-- A posted write ends with its access: the head leaves the queue, whatever the result; a failure records a POSTED_WRITE fault of the
write's epoch and, for class GUARDED, sets the faulted flag; then a held request is evaluated again, a read that waited for the line asks
for the port, and the drain is checked (R28, R37, R56, R83, R88, R93, R94). -/
def Obligations.PostedWriteEnds : Prop :=
  ∀ (s : State) (c : Instr) (a : Access) (r : PortResult) (port : MemoryPort) (e : QueueEntry) (rest : List QueueEntry),
    s.supply ≠ .BACKUP → AccessEnds s c a r port → s.arbiter.grant = some .QUEUE_HEAD → s.queue = e :: rest →
    (∀ data, r = .OK data → exec c s = .next (arbitrate (drainCheck (endHazard (reevaluate
      { s with port := port, arbiter := { s.arbiter with grant := none }, queue := rest }))))) ∧
    (∀ cause, r = .FAILED cause → exec c s = .next (arbitrate (drainCheck (endHazard (reevaluate
      (recordFault .POSTED_WRITE cause e.addr e.epochTag
        { s with
          port := port, arbiter := { s.arbiter with grant := none }, queue := rest
          ctl := { s.ctl with faulted := s.ctl.faulted || e.cls == .GUARDED } }))))))

/-- A capture read ends with its access. OK keeps the word and goes on to the next, or with the eighth releases the port and asks for the
completion write; a failure releases the port, keeps its cause and asks for the release write; an abandoned capture discards the result, and
is over when its release write has ended (R18, R19, R20). -/
def Obligations.CaptureReadEnds : Prop :=
  ∀ (s : State) (c : Instr) (a : Access) (r : PortResult) (port : MemoryPort) (job : CaptureJob), s.supply ≠ .BACKUP →
    AccessEnds s c a r port → s.arbiter.grant = some .CAPTURE → s.capture = some job →
    (∀ data, job.stage = .READING → r = .OK data → job.words.length < 7 → exec c s = .next (arbitrate
      { s with port := port, capture := some { job with words := job.words ++ [data] } })) ∧
    (∀ data, job.stage = .READING → r = .OK data → job.words.length = 7 → exec c s = .next (arbitrate
      { s with port := port, arbiter := { s.arbiter with grant := none }
               capture := some { job with words := job.words ++ [data] }, writes := s.writes ++ [.COMPLETION] })) ∧
    (∀ cause, job.stage = .READING → r = .FAILED cause → exec c s = .next (arbitrate
      { s with port := port, arbiter := { s.arbiter with grant := none }
               capture := some { job with failure := some cause }, writes := s.writes ++ [.RELEASE] })) ∧
    (job.stage = .ABANDONING → .RELEASE ∈ s.writes → exec c s = .next (arbitrate
      { s with port := port, arbiter := { s.arbiter with grant := none } })) ∧
    (job.stage = .ABANDONING → .RELEASE ∉ s.writes → exec c s = .next (arbitrate (drainCheck
      { s with port := port, arbiter := { s.arbiter with grant := none }, capture := none })))

/-- A restore word write ends with its access. OK moves to the next word, or after word 7 counts the slot and asks for its retire; a first
or second failure tries the word again; the third records a fault, sets STALL, halts the engine and enters STALLED, where a held request is
evaluated again (R59, R60, R67, R88). -/
def Obligations.RestoreWriteEnds : Prop :=
  ∀ (s : State) (c : Instr) (a : Access) (r : PortResult) (port : MemoryPort), s.supply ≠ .BACKUP →
    AccessEnds s c a r port → s.arbiter.grant = some .RESTORE → s.restore.state = .WRITING →
    (∀ data, r = .OK data → s.restore.word ≠ 7 → exec c s = .next (arbitrate
      { s with port := port, restore := { s.restore with word := s.restore.word + 1, attempt := 1 } })) ∧
    (∀ data, r = .OK data → s.restore.word = 7 → exec c s = .next (arbitrate
      { s with
        port := port, arbiter := { s.arbiter with grant := none }, writes := s.writes ++ [.RETIRE]
        restore := { s.restore with state := .RETIRING, word := 0, attempt := 1, restored := s.restore.restored + 1 } })) ∧
    (∀ cause, r = .FAILED cause → s.restore.attempt < 3 → exec c s = .next (arbitrate
      { s with port := port, restore := { s.restore with attempt := s.restore.attempt + 1 } })) ∧
    (∀ cause, r = .FAILED cause → 3 ≤ s.restore.attempt → exec c s = .next (arbitrate
      (reevaluate (setEvent .STALL (recordFault .RESTORE_WRITE cause (cursorAddr s) (s.retention.header.epoch + 1)
        { s with
          port := port, arbiter := { s.arbiter with grant := none }, restore := { s.restore with state := .HALTED }
          ctl := { s.ctl with
            state := .STALLED, stallOrigin := some (if s.ctl.state = .RECOVERY then .RECOVERY else .ROLLBACK) } })))))

/-- The arbiter gives a free port to a waiting queue head after four host-side grants in a row, else to a waiting capture or host read, else
to the queue head, else to the restore engine; the holder's access is issued with the tag chosen and its timer at 0 (R18, R59, R74, R84,
R93, R97, R98). -/
def Obligations.ArbiterGrantsThePort : Prop :=
  ∀ (s : State) (tag : Tag), isRunning s = true → s.port.inFlight = none → s.arbiter.grant = none →
    firstTag s.port.owed 16 s.port.nextTag = some tag →
    (∀ job, s.capture = some job → job.stage = .WAITING → ¬ (s.arbiter.hostCount = 4 ∧ headWaits s = true) →
      arbitrate s =
        { s with
          capture := some { job with stage := .READING }
          arbiter := { grant := some .CAPTURE, hostCount := if s.queue = [] then 0 else s.arbiter.hostCount + 1 }
          port := issued s tag .READ (wordAddr job.line job.words.length) .four [] }) ∧
    (∀ job, s.host = some job → job.stage = .PORT_WAIT → captureWaits s = false →
      ¬ (s.arbiter.hostCount = 4 ∧ headWaits s = true) →
      arbitrate s =
        { s with
          host := some { job with stage := .AT_MEMORY }
          arbiter := { grant := some .HOST_READ, hostCount := if s.queue = [] then 0 else s.arbiter.hostCount + 1 }
          port := issued s tag .READ job.addr job.size [] }) ∧
    (∀ e rest, s.queue = e :: rest → e.inFlight = false →
      s.arbiter.hostCount = 4 ∨ (captureWaits s = false ∧ hostReadWaits s = false) →
      arbitrate s =
        { s with
          queue := { e with inFlight := true } :: rest
          arbiter := { grant := some .QUEUE_HEAD, hostCount := 0 }
          port := issued s tag .WRITE e.addr e.size e.data }) ∧
    (∀ k image, s.restore.state = .WAITING → s.restore.slot = some k → (s.retention.slots.get k).image = some image →
      captureWaits s = false → hostReadWaits s = false → headWaits s = false →
      arbitrate s =
        { s with
          restore := { s.restore with state := .WRITING }
          arbiter := { grant := some .RESTORE, hostCount := 0 }
          port := issued s tag .WRITE (wordAddr (s.retention.slots.get k).line s.restore.word.val) .four
            (image.get s.restore.word).toList })

/-- The port's choice of a tag: from the next tag on, in the order 0 to 15 and round again, the first that is not owed; none when all 16 are
owed (R74). -/
def Obligations.TagIsTheFirstNotOwed : Prop :=
  ∀ (owed : Vector Bool 16) (next : Tag),
    (∀ tag, firstTag owed 16 next = some tag ↔
      ∃ n : Nat, n < 16 ∧ tag = next + BitVec.ofNat 4 n ∧ owed.get tag.toFin = false ∧
        ∀ m < n, owed.get (next + BitVec.ofNat 4 m).toFin = true) ∧
    (firstTag owed 16 next = none ↔ ∀ tag : Tag, owed.get tag.toFin = true)

/-- With some tag not owed, what the arbiter and the port do within an event moves the port, the grant, and the stages of the requesters,
and nothing else. With all 16 owed the port issues nothing: it stays IDLE, the owed set unchanged, and the requester granted has NO_RESPONSE
at once: a host read is refused MEMORY, a capture asks for its release, the queue head leaves, the restore engine fails its attempts and
stalls; each stated where nothing waits after it. A stopped part and a port at rest stay as they are (R19, R60, R67, R74, R84, R93, R94,
R97, R99). -/
def Obligations.ArbitrationFrame : Prop :=
  (∀ s : State,
    ((∃ tag : Tag, s.port.owed.get tag.toFin = false) →
      arbitrate s = { s with
        port := (arbitrate s).port, arbiter := (arbitrate s).arbiter, host := (arbitrate s).host, capture := (arbitrate s).capture
        queue := (arbitrate s).queue, restore := (arbitrate s).restore } ∧
      (arbitrate s).port.owed = s.port.owed ∧
      (arbitrate s).host.map (fun job => (job.op, job.addr, job.size, job.tag, job.region)) =
        s.host.map (fun job => (job.op, job.addr, job.size, job.tag, job.region)) ∧
      (arbitrate s).capture.map (fun job => { job with stage := .WAITING }) = s.capture.map (fun job => { job with stage := .WAITING }) ∧
      (arbitrate s).queue.map (fun e => (e.addr, e.size, e.data, e.cls, e.region, e.epochTag)) =
        s.queue.map (fun e => (e.addr, e.size, e.data, e.cls, e.region, e.epochTag)) ∧
      (arbitrate s).restore = { s.restore with state := (arbitrate s).restore.state }) ∧
    (isRunning s = false → arbitrate s = s) ∧ (PortAtRest s → arbitrate s = s)) ∧
  ∀ s : State, isRunning s = true → s.port.inFlight = none → (∀ tag : Tag, s.port.owed.get tag.toFin = true) →
    (arbitrate s).port = s.port ∧
    (∀ job t, s.arbiter.grant = none → chooseHolder s = some .HOST_READ → s.host = some job → PortAtRest t →
      t = recordFault .HOST_READ .NO_RESPONSE job.addr (s.retention.header.epoch + 1)
        (logRefusal (opKind job.op) job.addr job.size .MEMORY job.region
          { s with
            arbiter := { grant := none, hostCount := if s.queue = [] then 0 else s.arbiter.hostCount + 1 }, host := none
            responses := s.responses ++ [{ status := .ERR, data := [], tag := job.tag, reason := some .MEMORY }] }) →
      arbitrate s = t) ∧
    (∀ job t, s.arbiter.grant = none → chooseHolder s = some .CAPTURE → s.capture = some job → PortAtRest t →
      t = { s with
        arbiter := { grant := none, hostCount := if s.queue = [] then 0 else s.arbiter.hostCount + 1 }
        capture := some { job with stage := .READING, failure := some .NO_RESPONSE }, writes := s.writes ++ [.RELEASE] } →
      arbitrate s = t) ∧
    (∀ e rest t, s.arbiter.grant = none → chooseHolder s = some .QUEUE_HEAD → s.queue = e :: rest → PortAtRest t →
      t = drainCheck (endHazard (reevaluate (recordFault .POSTED_WRITE .NO_RESPONSE e.addr e.epochTag
        { s with
          arbiter := { grant := none, hostCount := 0 }, queue := rest
          ctl := { s.ctl with faulted := s.ctl.faulted || e.cls == .GUARDED } }))) →
      arbitrate s = t) ∧
    (∀ k t, s.arbiter.grant = none ∧ chooseHolder s = some .RESTORE ∨ s.arbiter.grant = some .RESTORE ∧ s.restore.state = .WRITING →
      s.restore.slot = some k → (s.retention.slots.get k).image.isSome = true → s.restore.attempt ≤ 3 → PortAtRest t →
      t = reevaluate (setEvent .STALL (recordFault .RESTORE_WRITE .NO_RESPONSE
        (wordAddr (s.retention.slots.get k).line s.restore.word.val) (s.retention.header.epoch + 1)
        { s with
          arbiter := { grant := none, hostCount := if s.arbiter.grant = none then 0 else s.arbiter.hostCount }
          restore := { s.restore with state := .HALTED, attempt := 3 }
          ctl := { s.ctl with
            state := .STALLED, stallOrigin := some (if s.ctl.state = .RECOVERY then .RECOVERY else .ROLLBACK) } })) →
      arbitrate s = t)

/-! ### The ends of retention writes -/

/-- The allocation write ends: the lowest-numbered FREE slot is FILLING with the line, the region and the next sequence, the count and the
next sequence rise, EMPTY becomes OPEN, the index gains the line, JHIGH is set when the count has risen to the level, and the engine asks
for the port (R6, R10, R18, R23). -/
def Obligations.AllocationWriteEnds : Prop :=
  ∀ (s : State) (job : CaptureJob) (k : SlotNo), s.writes.head? = some .ALLOCATION → s.capture = some job →
    lowestFree s.retention = some k →
    exec .allocationWriteEnd s = .next (arbitrate
      { s with
        retention := { s.retention with
          header := { s.retention.header with
            state := if s.retention.header.state = .EMPTY then .OPEN else s.retention.header.state
            count := s.retention.header.count + 1, nextSeq := s.retention.header.nextSeq + 1 }
          slots := s.retention.slots.set k.val
            { state := .FILLING, line := job.line, region := job.region, seq := s.retention.header.nextSeq, image := none } k.isLt }
        writes := s.writes.tail, writeBegun := !s.writes.tail.isEmpty
        index := s.index ++ [(job.line, k)]
        capture := some { job with slot := k, stage := if job.stage = .ALLOCATING then .WAITING else job.stage }
        events := if s.retention.header.count + 1 = s.cfg.highWater then (setEvent .JHIGH s).events else s.events })

/-- The completion write ends: the slot is COMPLETE with the 8 words, the guarded write enters the queue, the host is answered OK, the
engine is IDLE (R11, R18, R92). -/
def Obligations.CompletionWriteEnds : Prop :=
  ∀ (s : State) (job : CaptureJob) (req : HostJob), s.writes.head? = some .COMPLETION → s.capture = some job → s.host = some req →
    exec .completionWriteEnd s = .next (arbitrate
      { s with
        retention := { s.retention with
          slots := s.retention.slots.set job.slot.val
            { s.retention.slots.get job.slot with state := .COMPLETE, image := some (imageOfWords job.words) } job.slot.isLt }
        writes := s.writes.tail, writeBegun := !s.writes.tail.isEmpty
        queue := s.queue ++ [{ addr := job.addr, size := job.size, data := job.data, cls := .GUARDED, region := some job.region
                               epochTag := s.retention.header.epoch + 1, inFlight := false }]
        host := none
        responses := s.responses ++ [{ status := .OK, data := [], tag := req.tag, reason := none }]
        meters := (meterCount (some job.region) job.size s).meters
        capture := none }) ∧
    ∀ i : Fin 8, (imageOfWords job.words).get i = job.words.getD i.val { lane0 := 0, lane1 := 0, lane2 := 0, lane3 := 0 }

/-- The release write ends: the slot is FREE, the count and the next sequence fall, the index loses it, and the guarded write is refused:
MEMORY with a CAPTURE_READ fault at the word that failed, or ABORTED; an abandoned capture with its read outstanding stays (R12, R19, R20).
-/
def Obligations.ReleaseWriteEnds : Prop :=
  ∀ (s : State) (job : CaptureJob) (req : HostJob), s.writes.head? = some .RELEASE → s.capture = some job → s.host = some req →
    (∀ cause, job.stage = .READING → job.failure = some cause → exec .releaseWriteEnd s = .next (drainCheck
      { recordFault .CAPTURE_READ cause (wordAddr job.line job.words.length) (s.retention.header.epoch + 1)
          (logRefusal (opKind req.op) req.addr req.size .MEMORY (some job.region) (slotReleased job.slot req.tag .MEMORY s)) with
        capture := none })) ∧
    (job.stage = .ABANDONING → s.arbiter.grant = some .CAPTURE → exec .releaseWriteEnd s = .next
      (logRefusal (opKind req.op) req.addr req.size .ABORTED (some job.region) (slotReleased job.slot req.tag .ABORTED s))) ∧
    (job.stage = .ABANDONING → s.arbiter.grant ≠ some .CAPTURE → exec .releaseWriteEnd s = .next (drainCheck
      { logRefusal (opKind req.op) req.addr req.size .ABORTED (some job.region) (slotReleased job.slot req.tag .ABORTED s) with
        capture := none }))

/-- The drain check: a drained commit of an epoch that is not faulted asks for its seal, a faulted one turns into a rollback with cause
FAULT that evaluates a held request again and asks for its mark at once, a drained rollback asks for its mark; with work left, or in another
state, nothing happens (R37, R38, R39, R51, R55, R56, R57). -/
def Obligations.DrainIsChecked : Prop :=
  ∀ s : State,
    (s.ctl.state = .DRAINING → isDrained s = true → s.writes = [] → s.retention.header.state ≠ .SEALED → s.ctl.faulted = false →
      drainCheck s = { s with writes := [.SEAL] }) ∧
    (s.ctl.state = .DRAINING → isDrained s = true → s.writes = [] → s.retention.header.state ≠ .SEALED →
      s.retention.header.state ≠ .UNWINDING → s.ctl.faulted = true →
      drainCheck s = { reevaluate { s with ctl := { s.ctl with state := .ROLLBACK, cause := some .FAULT, autoTimer := none } } with
        writes := [.MARK] }) ∧
    (s.ctl.state = .ROLLBACK → isDrained s = true → s.writes = [] → s.retention.header.state ≠ .UNWINDING →
      drainCheck s = { s with writes := [.MARK] }) ∧
    (isDrained s = false → drainCheck s = s) ∧
    (s.ctl.state ≠ .DRAINING → s.ctl.state ≠ .ROLLBACK → drainCheck s = s)

/-- The seal write ends: SEALED, E one higher, COMMITTED appended with the number of COMPLETE slots; every touched staged entry replaces its
active entry and clears its meter record, the marks are cleared; the clear write is asked for (R13, R39, R40, R44, R45, R110, R111). -/
def Obligations.SealWriteEnds : Prop :=
  ∀ s : State, s.writes.head? = some .SEAL → ∃ t : State, exec .sealWriteEnd s = .next t ∧
    t.retention = { s.retention with
      header := { s.retention.header with state := .SEALED, epoch := s.retention.header.epoch + 1 }
      history := appendOutcome
        { epoch := s.retention.header.epoch + 1, kind := .COMMITTED
          entries := s.retention.slots.toList.countP (fun slot => slot.state == .COMPLETE)
          boot := s.retention.header.boot, uptime := s.uptime.ms } s.retention.history } ∧
    (∀ i, ((s.staged.get i).touched = true →
        t.active.get i = (s.staged.get i).entry ∧ t.meters.get i = { count := 0, latch := 0, strikes := 0, trip := .CLEAR }) ∧
      ((s.staged.get i).touched = false → t.active.get i = s.active.get i ∧ t.meters.get i = s.meters.get i) ∧
      t.staged.get i = { s.staged.get i with touched := false }) ∧
    t.writes = s.writes.tail ++ [.CLEAR] ∧ t.writeBegun = !s.writes.tail.isEmpty ∧
    t = { s with
      retention := t.retention, active := t.active, meters := t.meters, staged := t.staged
      writes := t.writes, writeBegun := t.writeBegun }

/-- The clear write ends: every slot FREE, the header EMPTY, the index empty, COMMITTED set (RESTARTED in a recovery), entry to OPEN. The
discard write ends likewise, with its outcome, the restore engine IDLE and no event (R13, R15, R41, R44, R63, R65, R70); that a retire or
finish still asked for is then not made is the model's choice (log 13). -/
def Obligations.ClearAndDiscardWritesEnd : Prop :=
  ∀ s : State,
    (s.writes.head? = some .CLEAR → exec .clearWriteEnd s = .next (arbitrate (enterOpen (setEvent
      (if s.ctl.state = .RECOVERY then .RESTARTED else .COMMITTED)
      { s with
        retention := { s.retention with
          header := { s.retention.header with state := .EMPTY, count := 0, nextSeq := 0, cause := none }
          slots := Vector.replicate 256 { state := .FREE, line := 0, region := 0, seq := 0, image := none } }
        index := [], writes := s.writes.tail, writeBegun := !s.writes.tail.isEmpty })))) ∧
    (s.writes.head? = some .DISCARD → exec .discardWriteEnd s = .next (arbitrate (enterOpen
      { s with
        retention := { s.retention with
          header := { s.retention.header with state := .EMPTY, count := 0, nextSeq := 0, cause := none }
          slots := Vector.replicate 256 { state := .FREE, line := 0, region := 0, seq := 0, image := none }
          history := appendOutcome
            { epoch := s.retention.header.epoch + 1, kind := .DISCARDED, entries := s.retention.header.count
              boot := s.retention.header.boot, uptime := s.uptime.ms } s.retention.history }
        index := [], writes := [], writeBegun := false
        restore := { s.restore with state := .IDLE, slot := none, word := 0, attempt := 1 } })))

/-- The unwinding mark ends: the header is UNWINDING with its cause, and the restore engine starts with restored count 0. The engine asks
for the port for a COMPLETE newest slot, for a retire of a FILLING one, and for the finish of an empty journal (R14, R57, R58, R64). -/
def Obligations.UnwindingMarkEnds : Prop :=
  ∀ s : State,
    (s.writes.head? = some .MARK → exec .unwindingMarkEnd s = .next (arbitrate (selectSlot
      { s with
        retention := { s.retention with header := { s.retention.header with state := .UNWINDING, cause := some (markCause s) } }
        writes := s.writes.tail, writeBegun := !s.writes.tail.isEmpty, ctl := { s.ctl with cause := none }, restore :=
            { s.restore with restored := 0 } }))) ∧
    (s.ctl.state = .RECOVERY → markCause s = .RESTART) ∧
    (s.ctl.state ≠ .RECOVERY → (s.ctl.cause = some .ABORT → markCause s = .ABORT) ∧ (s.ctl.cause = some .TRIP → markCause s = .TRIP) ∧
      (s.ctl.cause = some .FAULT → markCause s = .FAULT)) ∧
    (newestSlot s.retention = none → selectSlot s =
      { s with restore := { s.restore with state := .RETIRING, slot := none, word := 0, attempt := 1 }
               writes := s.writes ++ [.FINISH] }) ∧
    (∀ k, newestSlot s.retention = some k → (s.retention.slots.get k).state = .COMPLETE → selectSlot s =
      { s with restore := { s.restore with state := .WAITING, slot := some k, word := 0, attempt := 1 } }) ∧
    (∀ k, newestSlot s.retention = some k → (s.retention.slots.get k).state ≠ .COMPLETE → selectSlot s =
      { s with restore := { s.restore with state := .RETIRING, slot := some k, word := 0, attempt := 1 }
               writes := s.writes ++ [.RETIRE] })

/-- The retire write ends: the newest slot is FREE and leaves the index; with slots left the engine selects the next. The last retire and
the finish end the unwind: the header EMPTY, its outcome appended with the restored count, ROLLED_BACK set (RESTARTED in a recovery), the
engine IDLE, entry to OPEN (R15, R44, R58, R61, R65). -/
def Obligations.RetireAndFinishWritesEnd : Prop :=
  ∀ s : State,
    (∀ k, s.writes.head? = some .RETIRE → newestSlot s.retention = some k → s.retention.header.count ≠ 1 →
      exec .retireWriteEnd s = .next (arbitrate (selectSlot
        { s with
          retention := { s.retention with
            header := { s.retention.header with count := s.retention.header.count - 1 }
            slots := s.retention.slots.set k.val { state := .FREE, line := 0, region := 0, seq := 0, image := none } k.isLt }
          index := s.index.filter (fun e => e.2 != k), writes := s.writes.tail, writeBegun := !s.writes.tail.isEmpty }))) ∧
    (∀ k, s.writes.head? = some .RETIRE → newestSlot s.retention = some k → s.retention.header.count = 1 →
      exec .retireWriteEnd s = .next (arbitrate (enterOpen (setEvent (unwindEvent s)
        { s with
          retention := unwindFinished s
            { s.retention with
              header := { s.retention.header with count := 0 }
              slots := s.retention.slots.set k.val { state := .FREE, line := 0, region := 0, seq := 0, image := none } k.isLt }
          index := s.index.filter (fun e => e.2 != k), writes := s.writes.tail, writeBegun := !s.writes.tail.isEmpty
          restore := { s.restore with state := .IDLE, slot := none, word := 0, attempt := 1 } })))) ∧
    (s.writes.head? = some .FINISH → exec .finishWriteEnd s = .next (arbitrate (enterOpen (setEvent (unwindEvent s)
        { s with
          retention := unwindFinished s s.retention, writes := s.writes.tail, writeBegun := !s.writes.tail.isEmpty
          restore := { s.restore with state := .IDLE, slot := none, word := 0, attempt := 1 } })))) ∧
    (s.ctl.state = .RECOVERY → unwindKind s = .RESTART ∧ unwindEvent s = .RESTARTED) ∧
    (s.ctl.state ≠ .RECOVERY → unwindEvent s = .ROLLED_BACK ∧
      (s.retention.header.cause = some .ABORT → unwindKind s = .ABORTED) ∧
      (s.retention.header.cause = some .TRIP → unwindKind s = .TRIPPED) ∧
      (s.retention.header.cause = some .FAULT → unwindKind s = .FAULTED))

/-- An append to the history adds the record as the newest, and drops the oldest of 8; it never holds more than 8 (R45). -/
def Obligations.HistoryKeepsTheNewest : Prop :=
  ∀ (o : OutcomeRecord) (history : List OutcomeRecord),
    (history.length < 8 → appendOutcome o history = o :: history) ∧
    (∀ older oldest, history = older ++ [oldest] → history.length = 8 → appendOutcome o history = o :: older) ∧
    (appendOutcome o history).length ≤ 8

/-- Every step keeps the law of the journal: its fixed shape (R3, R5, R6, R7), and what ties it to the index (R9), the capture (R17, R18),
the queue (R16, R91), the unwind (R50, R58) and the arbiter (R98). In a store of that shape the lowest FREE slot is slot count, none at 256
(R6), and the newest slot is slot count-1, none at 0 (R8). Each retention write of section 1.5 keeps the shape under the header it is asked
for in, with the slot it is asked for: an allocation with a slot left, for a line no taken slot names (R10, R16); a completion of a FILLING
slot (R11); a release of the newest slot (R12); seal, clear, unwinding mark, retire, finish at count 0, discard; and so do the two writes of
a restart (R2). -/
def Obligations.JournalShapeKept : Prop :=
  (∀ s t : State, SupplyLaw s → JournalLaw s → step s = .next t → JournalLaw t) ∧
  ∀ r : Retention, JournalShape r →
    (∀ k : SlotNo, k.val = r.header.count → lowestFree r = some k) ∧
    (r.header.count = 256 → lowestFree r = none) ∧
    (∀ k : SlotNo, k.val + 1 = r.header.count → newestSlot r = some k) ∧
    (r.header.count = 0 → newestSlot r = none) ∧
    (∀ (line : Line) (region : RegionNo), r.header.state = .EMPTY ∨ r.header.state = .OPEN → r.header.count < 256 →
      (∀ k, Taken r k → (r.slots.get k).line ≠ line) → JournalShape (allocationWrite line region r)) ∧
    (∀ (k : SlotNo) (image : Image), r.header.state = .OPEN → (r.slots.get k).state = .FILLING →
      JournalShape (completionWrite k image r)) ∧
    (∀ k : SlotNo, r.header.state = .OPEN → k.val + 1 = r.header.count → JournalShape (releaseWrite k r)) ∧
    (∀ uptime : BitVec 32, r.header.state = .EMPTY ∨ r.header.state = .OPEN → JournalShape (sealWrite uptime r)) ∧
    (r.header.state = .SEALED → JournalShape (clearWrite r)) ∧
    (∀ cause : UnwindCause, r.header.state = .EMPTY ∨ r.header.state = .OPEN → JournalShape (unwindingMark cause r)) ∧
    (∀ (kind : OutcomeKind) (entries : Nat) (uptime : BitVec 32), r.header.state = .UNWINDING →
      (1 ≤ r.header.count → JournalShape (retireWrite kind entries uptime r)) ∧
      (r.header.count = 0 → JournalShape (finishWrite kind entries uptime r)) ∧
      JournalShape (discardWrite uptime r)) ∧
    JournalShape (bootCountWrite r) ∧ JournalShape (initialisationWrite r)

/-- Entry to OPEN: the faulted flag is clear, the stall origin absent, the auto-commit timer starts from the full interval, a held request
is evaluated again, and then a pending commit is taken at once (R27, R33, R36, R37, R88). -/
def Obligations.EntryToOpen : Prop :=
  ∀ s opened : State,
    opened = reevaluate
      { s with ctl := { state := .OPEN, faulted := false, pendingCommit := s.ctl.pendingCommit
                        autoTimer := if s.cfg.autoInterval = 0 then none else some (s.cfg.autoInterval.toNat * 1000)
                        stallOrigin := none, cause := s.ctl.cause } } →
    (s.ctl.pendingCommit = false → enterOpen s = opened) ∧
    (s.ctl.pendingCommit = true → ∀ t, CommitTaken { opened with ctl := { opened.ctl with pendingCommit := false } } t .DONE →
      enterOpen s = t)

/-! ### Commit requests, rollback orders, the window -/

/-- A commit request, of whatever source, acts by the epoch state in which it arrives: MARK's when its microsecond has passed, the
auto-commit timer's when its interval has, the link's at its take point, with its result. In OPEN it drains; an epoch drained at its take
asks for its seal, or, faulted, turns into a rollback with cause FAULT (R29, R31, R32, R33, R36 to R39, R55). -/
def Obligations.CommitRequests : Prop :=
  ∀ (s t : State) (result : LinkResult), CommitTaken s t result →
    (s.mark = .QUALIFIED → exec .markRequest s = .next { t with mark := .HIGH }) ∧
    (s.ctl.autoTimer = some 0 → exec .autoCommitExpiry s = .next { t with ctl := { t.ctl with autoTimer := none } }) ∧
    (FrameReady .commit s → exec .commit s = .next { t with link := answeredLink .commit [resultCode result] })

/-- The MARK line: a rise from low starts its microsecond; a fall drops it (R32). A rise in OFF is followed to HIGH with no microsecond (log
25). The expiry of an auto-commit timer that a SET_CONFIG has restarted commits nothing (R35). A request whose microsecond has not passed,
an expiry of a timer that does not run or has not run out and a boundary of a window that is not over, or of a stopped part, find nothing:
the model's choice for a row without its ground (log 5, log 23). -/
def Obligations.MarkLineAndIdleTimers : Prop :=
  ∀ s : State,
    (s.mark = .LOW → s.ctl.state ≠ .OFF → exec .markRisingEdge s = .next { s with mark := .QUALIFYING }) ∧
    (s.mark = .LOW → s.ctl.state = .OFF → exec .markRisingEdge s = .next { s with mark := .HIGH }) ∧
    (s.mark ≠ .LOW → exec .markRisingEdge s = .next s) ∧
    exec .markFallingEdge s = .next { s with mark := .LOW } ∧
    (s.mark ≠ .QUALIFIED → exec .markRequest s = .next s) ∧
    (s.ctl.autoTimer ≠ some 0 → exec .autoCommitExpiry s = .next s) ∧
    (∀ window hold level interval t, FrameReady (.setConfig window hold level interval) s → window.toNat < 8 → hold.toNat < 8 →
      s.ctl.state = .OPEN → interval ≠ s.cfg.autoInterval → exec (.setConfig window hold level interval) s = .next t →
      exec .autoCommitExpiry t = .next t) ∧
    (isRunning s = false ∨ s.window.elapsed < s.window.length * 1000 → exec .windowBoundary s = .next s)

/-- The window boundary, when the window is over: each metered region has its count latched and set to 0; a CLEAR one above its limit gains
a strike and trips at its qualify value, at or below it the strikes return to 0; the next window has the configured length; a trip sets
TRIP, and in OPEN a tripping region with action ROLLBACK orders the rollback, at which a held request is evaluated again (R51, R54, R56,
R57, R88, R114, R118, R119, R120, R121). -/
def Obligations.WindowBoundary : Prop :=
  ∀ s : State, RangeLaw s → isRunning s = true → s.window.length * 1000 ≤ s.window.elapsed → ∃ t : State, exec .windowBoundary s = .next t ∧
    (∀ i,
      (isMetered (s.active.get i) = false → t.meters.get i = s.meters.get i) ∧
      (Trips s i → t.meters.get i = { count := 0, latch := (s.meters.get i).count, strikes := 0, trip := .TRIPPED }) ∧
      (isMetered (s.active.get i) = true → ¬ Trips s i →
        t.meters.get i =
          { count := 0, latch := (s.meters.get i).count, trip := (s.meters.get i).trip
            strikes := if (s.meters.get i).trip = .CLEAR ∧ (s.meters.get i).count > (s.active.get i).writeLimit
              then (s.meters.get i).strikes + 1 else 0 })) ∧
    t.window = { length := 2 ^ s.cfg.windowCode.val, elapsed := 0 } ∧
    ((∀ i, ¬ Trips s i) → t = { s with meters := t.meters, window := t.window }) ∧
    ((∃ i, Trips s i) → s.ctl.state ≠ .OPEN ∨ (∀ i, Trips s i → (s.active.get i).action = .REFUSE) →
      t = { s with meters := t.meters, window := t.window, events := (setEvent .TRIP s).events }) ∧
    ((∃ i, Trips s i ∧ (s.active.get i).action = .ROLLBACK) → s.ctl.state = .OPEN →
      t = { reevaluate { s with
          meters := t.meters, window := t.window, events := (setEvent .TRIP s).events
          ctl := { s.ctl with state := .ROLLBACK, cause := some .TRIP, autoTimer := none } } with
        writes := if isDrained s = true ∧ s.writes = [] ∧ s.retention.header.state ≠ .UNWINDING then [.MARK] else s.writes })

/-- ABORT in OPEN enters ROLLBACK with cause ABORT, stops the auto-commit timer and evaluates a held request again (R88); with no capture in
flight a drained epoch asks for its mark at once, and a capture that has not yet all its words, or not yet the port, is abandoned with its
release asked for; a capture whose completion or release is asked for runs on. In any other state it is answered STATE (R20, R51, R52, R53,
R56, R57). -/
def Obligations.AbortOrdersARollback : Prop :=
  ∀ s : State, FrameReady .abort s →
    (s.ctl.state ≠ .OPEN → exec .abort s = .next { s with link := answeredLink .abort [0x02] }) ∧
    ∀ u, u = reevaluate { s with ctl := { s.ctl with state := .ROLLBACK, cause := some .ABORT, autoTimer := none } } →
      s.ctl.state = .OPEN →
      (s.capture = none → exec .abort s = .next
        { u with
          writes := if s.queue = [] ∧ s.writes = [] ∧ s.retention.header.state ≠ .UNWINDING then [.MARK] else s.writes
          link := answeredLink .abort [0x00] }) ∧
      (∀ job, s.capture = some job → exec .abort s = .next
        { u with
          capture := some { job with stage :=
            if job.stage = .READING ∧ s.arbiter.grant ≠ some .CAPTURE then .READING else .ABANDONING }
          writes := if job.stage = .ABANDONING ∨ job.stage = .READING ∧ s.arbiter.grant ≠ some .CAPTURE then s.writes
            else s.writes ++ [.RELEASE]
          link := answeredLink .abort [0x00] })

/-- RETRY_RESTORE in STALLED resumes the state the stall left, at the newest slot from word 0; DISCARD_JOURNAL in STALLED asks for the
discard write; both are answered STATE elsewhere (R69, R70). -/
def Obligations.StallCommands : Prop :=
  ∀ s : State,
    (FrameReady .retryRestore s →
      (s.ctl.state ≠ .STALLED → exec .retryRestore s = .next { s with link := answeredLink .retryRestore [0x02] }) ∧
      (∀ origin, s.ctl.state = .STALLED → s.ctl.stallOrigin = some origin → exec .retryRestore s = .next
        { arbitrate (selectSlot (reevaluate
            { s with ctl := { s.ctl with state := if origin = .RECOVERY then .RECOVERY else .ROLLBACK } })) with
          link := answeredLink .retryRestore [0x00] })) ∧
    (FrameReady .discardJournal s →
      (s.ctl.state ≠ .STALLED → exec .discardJournal s = .next { s with link := answeredLink .discardJournal [0x02] }) ∧
      (s.ctl.state = .STALLED → .DISCARD ∉ s.writes → exec .discardJournal s = .next
        { s with writes := s.writes ++ [.DISCARD], link := answeredLink .discardJournal [0x00] }))

/-! ### Supply, reset and restart -/

/-- Entry to FAILING and the assertion of RST# stop every volatile block as one event: the request in progress is answered ERR with POWER or
RESET, the access in flight is dropped and its tag owed, ALERT# is released, a qualification of RST# is dropped (R164); the retention writes
that have begun are made whole, how many being a free value but for one that waited behind another, which has begun; no other write asked
for is made (R1, R20, log 8); the tables, the report unit, the flags and uptime stay (R21, R47, R73, R76, R90, R95, R154, R157, R159, R162).
-/
def Obligations.TheStop : Prop :=
  ∀ (s : State) (store : Retention), StoreAtStop s store →
    (s.supply = .RUN ∨ s.supply = .SETTLING → exec .vddFail s = .next
      (stoppedBy store .POWER { s with supply := .FAILING, settle := .STOPPED, free := s.free + 1 })) ∧
    (s.rst = .QUALIFIED → exec .rstAssert s = .next
      (stoppedBy store (if s.supply = .RUN then .RESET else .POWER)
        { s with rst := .ASSERTED, resetInForce := true, free := s.free + 1 }))

/-- BACKUP: from RUN and SETTLING the switch-over is the entry to FAILING and then BACKUP (two moves that R154 words for RUN alone, log 10),
where every volatile block loses its state, and holds what a restart gives it (log 9), the port's tags from 0 with none owed; VBK below its
minimum, which the row carries (log 10), loses the store, and so does the first power after none (log 19); what a lost store holds is free,
its latch is clear (log 6) (R76, R154, R155, R156, R158). -/
def Obligations.EntryToBackup : Prop :=
  ∀ s : State,
    (s.supply = .RUN ∨ s.supply = .SETTLING → ∀ low store, StoreAtStop s store →
      exec (.vddSwitchOver low) s =
        exec (.vddSwitchOver low) (stoppedBy store .POWER { s with supply := .FAILING, settle := .STOPPED, free := s.free + 1 })) ∧
    (s.supply = .FAILING → exec (.vddSwitchOver false) s = .next (unpowered s)) ∧
    (s.supply = .FAILING → exec (.vddSwitchOver true) s = .next (storeLost (unpowered s))) ∧
    exec .firstPower s = .next (storeLost (unpowered
      (stoppedBy s.retention .POWER { s with supply := .FAILING, settle := .STOPPED }))) ∧
    (s.supply = .BACKUP → exec .vbkLow s = .next (storeLost s)) ∧ (storeLost s).retention.latch = false

/-- The other moves of the supply and of RST#: VDD good begins the settling; RST# held low at the settle time puts the reset in force (a low
whose qualification a stop dropped counts as held, log 11); a release before the settle time ends the reset; a low pulse of RST# that was
not timed to 1 us is no assertion (R154, R156, R159, R160, R164). Where the ground of an event does not stand, or its time has not passed
(log 23), nothing changes: the model's choice (log 5). -/
def Obligations.SupplyAndResetMoves : Prop :=
  ∀ s : State,
    (s.supply = .FAILING ∨ s.supply = .BACKUP → exec .vddGood s = .next { s with supply := .SETTLING, settle := .RUNNING 0 }) ∧
    (s.supply = .RUN ∨ s.supply = .SETTLING → exec .vddGood s = .next s) ∧
    (s.supply = .FAILING ∨ s.supply = .BACKUP → exec .vddFail s = .next s) ∧
    (s.supply = .BACKUP → ∀ low, exec (.vddSwitchOver low) s = .next s) ∧
    (s.supply ≠ .BACKUP → exec .vbkLow s = .next s) ∧
    (∀ n, s.supply = .SETTLING → s.settle = .RUNNING n → 20000 ≤ n → s.rst = .ASSERTED ∨ s.rst = .LOW →
      exec .settleTimerExpiry s = .next { s with supply := .RUN, settle := .STOPPED, rst := .ASSERTED, resetInForce := true }) ∧
    (s.supply ≠ .SETTLING ∨ (∀ n, s.settle = .RUNNING n → n < 20000) → exec .settleTimerExpiry s = .next s) ∧
    (s.rst = .HIGH → exec .rstFallingEdge s = .next { s with rst := .QUALIFYING }) ∧
    (s.rst ≠ .HIGH → exec .rstFallingEdge s = .next s) ∧
    (s.rst ≠ .QUALIFIED → exec .rstAssert s = .next s) ∧
    (s.rst = .QUALIFYING ∨ s.rst = .QUALIFIED ∨ s.rst = .LOW → exec .rstRelease s = .next { s with rst := .HIGH }) ∧
    (s.rst = .HIGH → exec .rstRelease s = .next s) ∧
    (s.rst = .ASSERTED → s.supply = .FAILING ∨ s.supply = .BACKUP ∨ s.supply = .SETTLING ∧ s.settle ≠ .EXPIRED →
      exec .rstRelease s = .next { s with rst := .HIGH, resetInForce := false })

/-- A cold restart, from the settle time (a low of RST# not yet asserted holds nothing back, log 11) or the release of RST# (in SETTLING
after the settle time too, log 12) with the latch clear: step 1 asks for the initialisation, whose end leaves the part as State.reset has
it, but for the lines, the frame in progress, the port's tags and the model's own fields (R2, R26, R76, R143, R155, R156, R160, R161). -/
def Obligations.ColdRestart : Prop :=
  ∀ (s : State) (c : Instr) (rst : ResetLine), RestartBegins s c rst → s.retention.latch = false →
    ∃ t : State, exec c s = .next t ∧ t.writes = [.INITIALISATION] ∧ t.retention = s.retention ∧ isRunning t = false ∧
      exec .initialisationWriteEnd t = .next
        { State.reset with
          port := { inFlight := none, timer := 0, nextTag := s.port.nextTag, owed := s.port.owed }
          rst := rst, mark := s.mark, link := s.link, responses := s.responses, free := s.free, pending := s.pending }

/-- A warm restart, begun as a cold one (log 11, log 12), with the latch set: step 1 asks for the boot count write, whose end raises B by
one and starts the part by the header alone: EMPTY in OPEN with RESTARTED, OPEN in RECOVERY with the mark asked for, SEALED in RECOVERY with
the clear asked for, UNWINDING in RECOVERY with the restore engine at its first slot (R2, R48, R63, R64, R76, R160, R161, R163). -/
def Obligations.WarmRestart : Prop :=
  ∀ (s : State) (c : Instr) (rst : ResetLine), RestartBegins s c rst → s.retention.latch = true →
    ∃ t : State, exec c s = .next t ∧ t.writes = [.BOOT_COUNT] ∧ t.retention = s.retention ∧ isRunning t = false ∧
      (s.retention.header.state = .EMPTY → exec .bootCountWriteEnd t = .next
        { warmStart s rst with ctl := State.reset.ctl, events := { flags := 0b100, enables := 0, alert := .RELEASED } }) ∧
      (s.retention.header.state = .OPEN → exec .bootCountWriteEnd t = .next { warmStart s rst with writes := [.MARK] }) ∧
      (s.retention.header.state = .SEALED → exec .bootCountWriteEnd t = .next { warmStart s rst with writes := [.CLEAR] }) ∧
      (s.retention.header.state = .UNWINDING → exec .bootCountWriteEnd t = .next (arbitrate (selectSlot (warmStart s rst))))

/-! ### The commands of the management link -/

/-- The reading commands, and a code that names no command, change nothing but the link: the answer is fixed at the take point (R24, R46,
R113, R139, R174, R177, R181, R182, R187). Its data are those of section 11.4, byte by byte, with the codes of section 11.3; which lane of
an image word goes first is a free value (log 7). -/
def Obligations.ReadingCommands : Prop :=
  (∀ s : State,
    (FrameReady .readStatus s → exec .readStatus s = .next { s with link := answeredLink .readStatus (0x00 :: statusBytes s) }) ∧
    (FrameReady .readConfig s → exec .readConfig s = .next { s with
      link := answeredLink .readConfig
        ([0x00, BitVec.ofNat 8 s.cfg.windowCode.val, BitVec.ofNat 8 s.cfg.holdCode.val, BitVec.ofNat 8 (s.cfg.highWater - 1)]
          ++ bytes16 s.cfg.autoInterval) }) ∧
    (∀ index selection, FrameReady (.readRegion index selection) s →
      (16 ≤ index.toNat ∨ 2 ≤ selection.toNat → exec (.readRegion index selection) s =
        .next { s with link := answeredLink (.readRegion index selection) [0x03] }) ∧
      (∀ i : RegionNo, index.toNat = i.val → selection = 0 → exec (.readRegion index selection) s = .next
        { s with
          link := answeredLink (.readRegion index selection) (0x00 :: regionBytes (s.active.get i) ++ meterBytes (s.meters.get i)) }) ∧
      (∀ i : RegionNo, index.toNat = i.val → selection = 1 → exec (.readRegion index selection) s = .next
        { s with
          link := answeredLink (.readRegion index selection)
            (0x00 :: regionBytes (s.staged.get i).entry ++ [if (s.staged.get i).touched then 0x01 else 0x00]) })) ∧
    (∀ slot, FrameReady (.readEntry slot) s → exec (.readEntry slot) s = .next
      { s with
        link := answeredLink (.readEntry slot) (0x00 :: entryBytes (s.retention.slots.get ⟨slot.toNat, slot.isLt⟩)) }) ∧
    (FrameReady .readOutcomes s → exec .readOutcomes s = .next { s with
      link := answeredLink .readOutcomes
        (0x00 :: BitVec.ofNat 8 s.retention.history.length :: s.retention.history.flatMap outcomeBytes) }) ∧
    (FrameReady .readFault s → exec .readFault s = .next { s with link := answeredLink .readFault (0x00 :: faultBytes s.report.fault) }) ∧
    (∀ code, paramCount code = none → FrameReady (.unknownCode code) s →
      exec (.unknownCode code) s = .next { s with link := answeredLink (.unknownCode code) [0x04] })) ∧
  (∀ s : State, (statusBytes s).map (·.toNat) =
    [(epochStateCode s.ctl.state).toNat, (headerStateCode s.retention.header.state).toNat] ++ be4 s.retention.header.epoch.toNat
      ++ be2 s.retention.header.count
      ++ [s.queue.length % 256, flag1 s.ctl.pendingCommit + 2 * flag1 s.ctl.faulted + 4 * flag1 s.capture.isSome]
      ++ be2 s.retention.header.boot.toNat ++ be4 s.uptime.ms.toNat ++ [(unwindCauseCode s.retention.header.cause).toNat]) ∧
  (∀ r, (regionBytes r).map (·.toNat) =
    [(regionKindCode r.kind).toNat] ++ be3 r.base.toNat ++ be3 r.limit.toNat ++ [flag1 r.metered] ++ be3 r.writeLimit
      ++ [r.qualify % 256, (tripActionCode r.action).toNat]) ∧
  (∀ m, (meterBytes m).map (·.toNat) = [(tripStateCode m.trip).toNat, m.strikes % 256] ++ be3 m.count ++ be3 m.latch) ∧
  faultBytes none = List.replicate 15 0 ∧
  (∀ f, (faultBytes (some f)).map (·.toNat) =
    [1, (faultSourceCode f.source).toNat, (causeCode f.cause).toNat] ++ be3 f.addr.toNat ++ be4 f.epoch.toNat ++ be4 f.uptime.toNat
      ++ [f.repeats % 256]) ∧
  (∀ o, (outcomeBytes o).map (·.toNat) =
    be4 o.epoch.toNat ++ [(outcomeKindCode o.kind).toNat] ++ be2 o.entries ++ be2 o.boot.toNat ++ be4 o.uptime.toNat) ∧
  (∀ slot, ((entryBytes slot).take 6).map (·.toNat) =
    [(slotStateCode slot.state).toNat] ++ be3 slot.line.toNat ++ [slot.region.val, slot.seq.toNat]) ∧
  (∀ slot, slot.state ≠ .COMPLETE → (entryBytes slot).length = 6) ∧
  (∀ slot image, slot.state = .COMPLETE → slot.image = some image → (entryBytes slot).drop 6 = image.toList.flatMap fun w =>
    if Config.lane0MostSignificant then [w.lane0, w.lane1, w.lane2, w.lane3] else [w.lane3, w.lane2, w.lane1, w.lane0]) ∧
  (∀ x : BitVec 16, (bytes16 x).map (·.toNat) = be2 x.toNat) ∧
  [EpochState.OPEN, .DRAINING, .ROLLBACK, .RECOVERY, .STALLED].map epochStateCode = [0, 1, 2, 3, 4] ∧
  [HeaderState.EMPTY, .OPEN, .SEALED, .UNWINDING].map headerStateCode = [0, 1, 2, 3] ∧
  [RegionKind.OFF, .PASS, .GUARDED, .READONLY].map regionKindCode = [0, 1, 2, 3] ∧
  [TripAction.REFUSE, .ROLLBACK].map tripActionCode = [0, 1] ∧ [TripState.CLEAR, .TRIPPED].map tripStateCode = [0, 1] ∧
  [SlotState.FREE, .FILLING, .COMPLETE].map slotStateCode = [0, 1, 2] ∧
  [FaultSource.POSTED_WRITE, .CAPTURE_READ, .HOST_READ, .RESTORE_WRITE].map faultSourceCode = [1, 2, 3, 4] ∧
  [Cause.ERR, .NO_RESPONSE].map causeCode = [1, 2] ∧
  [OutcomeKind.COMMITTED, .ABORTED, .TRIPPED, .FAULTED, .RESTART, .DISCARDED].map outcomeKindCode = [1, 2, 3, 4, 5, 6] ∧
  [none, some UnwindCause.ABORT, some .TRIP, some .FAULT, some .RESTART].map unwindCauseCode = [0, 1, 2, 3, 4]

/-- STAGE_REGION with every value in its range replaces the named staged entry whole and sets its mark, and with any value out of range
changes nothing; CLEAR_STAGED clears every mark and keeps the contents (R105, R106, R107, R108, R186). -/
def Obligations.StagingCommands : Prop :=
  (∀ (s : State) (index kind : Byte) (base limit : BitVec 24) (metered : Byte) (writeLimit : BitVec 24) (qualify action : Byte),
    FrameReady (.stageRegion index kind base limit metered writeLimit qualify action) s →
    (∀ (i : RegionNo) (k : RegionKind) (a : TripAction), index.toNat = i.val → kind = regionKindCode k → action = tripActionCode a →
      base.toNat ≤ limit.toNat → limit.toNat ≤ 524287 → 1 ≤ writeLimit.toNat → 1 ≤ qualify.toNat → qualify.toNat ≤ 15 →
      exec (.stageRegion index kind base limit metered writeLimit qualify action) s = .next
        { s with
          staged := s.staged.set i.val
            { entry := { kind := k, base := base.setWidth 19, limit := limit.setWidth 19, metered := metered != 0
                         writeLimit := writeLimit.toNat, qualify := qualify.toNat, action := a }
              touched := true } i.isLt
          link := answeredLink (.stageRegion index kind base limit metered writeLimit qualify action) [0x00] }) ∧
    (16 ≤ index.toNat ∨ 4 ≤ kind.toNat ∨ 2 ≤ action.toNat ∨ limit.toNat < base.toNat ∨ 524288 ≤ base.toNat ∨ 524288 ≤ limit.toNat ∨
        writeLimit = 0 ∨ qualify = 0 ∨ 16 ≤ qualify.toNat →
      exec (.stageRegion index kind base limit metered writeLimit qualify action) s = .next
        { s with link := answeredLink (.stageRegion index kind base limit metered writeLimit qualify action) [0x03] })) ∧
  (∀ s : State, FrameReady .clearStaged s → ∃ staged, exec .clearStaged s = .next
      { s with staged := staged, link := answeredLink .clearStaged [0x00] } ∧
    ∀ i, staged.get i = { entry := (s.staged.get i).entry, touched := false })

/-- CLEAR_TRIP: a TRIPPED region becomes CLEAR with strikes 0, its count and latch left as they stand; a CLEAR one is NOT_TRIPPED, an index
above 15 INVALID, and neither changes anything (R124). -/
def Obligations.ClearTrip : Prop :=
  ∀ (s : State) (index : Byte), FrameReady (.clearTrip index) s →
    (16 ≤ index.toNat → exec (.clearTrip index) s = .next { s with link := answeredLink (.clearTrip index) [0x03] }) ∧
    (∀ i : RegionNo, index.toNat = i.val →
      ((s.meters.get i).trip = .TRIPPED → exec (.clearTrip index) s = .next
        { s with
          meters := s.meters.set i.val
            { count := (s.meters.get i).count, latch := (s.meters.get i).latch, strikes := 0, trip := .CLEAR } i.isLt
          link := answeredLink (.clearTrip index) [0x00] }) ∧
      ((s.meters.get i).trip = .CLEAR → exec (.clearTrip index) s = .next { s with link := answeredLink (.clearTrip index) [0x05] }))

/-- SET_ENABLES replaces the whole set when it names only the twelve flags, and changes nothing otherwise; TAKE_EVENTS answers the set flags
and clears exactly those; ALERT# takes the drive the flags and enables then give (R147, R148). -/
def Obligations.EventCommands : Prop :=
  (∀ (s : State) (enables : BitVec 16), FrameReady (.setEnables enables) s →
    (enables.toNat < 4096 → ∃ t : State, exec (.setEnables enables) s = .next t ∧ AlertLaw t ∧
      t = { s with
        events := { flags := s.events.flags, enables := enables.setWidth 12, alert := t.events.alert }
        link := answeredLink (.setEnables enables) [0x00] }) ∧
    (4096 ≤ enables.toNat → exec (.setEnables enables) s = .next { s with link := answeredLink (.setEnables enables) [0x03] })) ∧
  (∀ s : State, FrameReady .takeEvents s → exec .takeEvents s = .next
    { s with
      events := { flags := 0, enables := s.events.enables, alert := .RELEASED }
      link := answeredLink .takeEvents (0x00 :: bytes16 (s.events.flags.setWidth 16)) })

/-- SET_CONFIG stores its four values together when both codes are 0 to 7, and nothing otherwise; in OPEN a changed interval restarts the
auto-commit timer, or stops it for 0; elsewhere and for the same interval the timer stays (R34, R115, R178, R179). TAKE_REFUSALS with n from
1 to 4 answers the number taken, the dropped count and the n oldest records, removes them and resets the dropped count; any other n changes
nothing (R135, R136); a record is laid out as section 11.4 gives it, with the codes of section 11.3. CLEAR_FAULT empties the fault record
alone (R140). -/
def Obligations.ConfigAndReportCommands : Prop :=
  (∀ (s : State) (window hold level : Byte) (interval : BitVec 16), FrameReady (.setConfig window hold level interval) s →
      (8 ≤ window.toNat ∨ 8 ≤ hold.toNat → exec (.setConfig window hold level interval) s = .next
        { s with link := answeredLink (.setConfig window hold level interval) [0x03] }) ∧
      (∀ w h : Fin 8, window.toNat = w.val → hold.toNat = h.val → exec (.setConfig window hold level interval) s = .next
        { s with
          cfg := { windowCode := w, holdCode := h, highWater := level.toNat + 1, autoInterval := interval }
          ctl := { s.ctl with autoTimer :=
            if s.ctl.state = .OPEN ∧ interval ≠ s.cfg.autoInterval
            then (if interval = 0 then none else some (interval.toNat * 1000)) else s.ctl.autoTimer }
          link := answeredLink (.setConfig window hold level interval) [0x00] })) ∧
  (∀ (s : State) (n : Byte), FrameReady (.takeRefusals n) s →
    (1 ≤ n.toNat → n.toNat ≤ 4 → exec (.takeRefusals n) s = .next
      { s with
        report := { s.report with log := s.report.log.drop n.toNat, dropped := 0 }
        link := answeredLink (.takeRefusals n)
          ([0x00, BitVec.ofNat 8 (min n.toNat s.report.log.length), BitVec.ofNat 8 s.report.dropped]
            ++ (s.report.log.take n.toNat).flatMap refusalBytes) }) ∧
    (n = 0 ∨ 5 ≤ n.toNat → exec (.takeRefusals n) s = .next { s with link := answeredLink (.takeRefusals n) [0x03] })) ∧
  (∀ s : State, FrameReady .clearFault s → exec .clearFault s = .next
    { s with report := { s.report with fault := none }, link := answeredLink .clearFault [0x00] }) ∧
  (∀ r : RefusalRecord, (refusalBytes r).map (·.toNat) =
    be2 r.seq.toNat ++ be4 r.uptime.toNat ++ [(requestKindCode r.kind).toNat] ++ be3 r.addr.toNat
      ++ [match r.size with | .one => 1 | .two => 2 | .four => 4, (reasonCode r.reason).toNat,
          match r.region with | some i => i.val | none => 255]
      ++ be4 r.epoch.toNat) ∧
  [RequestKind.READ, .WRITE].map requestKindCode = [0, 1] ∧
  [Reason.ALIGN, .PROTECT, .TRIPPED, .FULL, .MEMORY, .HOLD_TIMEOUT, .ABORTED, .RECOVERING, .STALLED].map reasonCode =
    [1, 2, 3, 4, 5, 6, 7, 8, 9]

end
end

