-- ==== Sys2Proof/Laws/Internal.lean ====
section
/-! SUPPORT. What the blocks' shared operations can do while the part runs, said once for all of them: `Internal s t`. -/

namespace Sys2Proof.Machine

/-- The tags of the answers given, and of the request in progress. -/
def requestTags (s : State) : List Tag := s.responses.map (·.tag) ++ (s.host.map (·.tag)).toList

/-- The report unit's counters are in range. -/
def ReportOk (r : ReportUnit) : Prop :=
  r.log.length ≤ 16 ∧ r.dropped ≤ 255 ∧ ∀ f, r.fault = some f → f.repeats ≤ 255

/-- `t` follows from `s` by work inside the running part: the retention store, the tables, the configuration, the supply side, the link, the
timebase and the waiting commands stay; retention writes are only asked for; flags are only set and ALERT# keeps its law; the controller
does not turn OFF; a request that ends is answered once; an access that is new at the port starts its timer at 0. -/
structure Internal (s t : State) : Prop where
  retention : t.retention = s.retention
  cfg : t.cfg = s.cfg
  active : t.active = s.active
  staged : t.staged = s.staged
  window : t.window = s.window
  supply : t.supply = s.supply
  settle : t.settle = s.settle
  rst : t.rst = s.rst
  force : t.resetInForce = s.resetInForce
  mark : t.mark = s.mark
  link : t.link = s.link
  uptime : t.uptime = s.uptime
  free : t.free = s.free
  pending : t.pending = s.pending
  writes : ∃ ws, t.writes = s.writes ++ ws ∧ ∀ w ∈ ws, isRestartWrite w = false
  writeBegun : t.writeBegun = s.writeBegun
  enables : t.events.enables = s.events.enables
  flags : ∀ k, s.events.flags.getLsbD k = true → t.events.flags.getLsbD k = true
  alert : AlertLaw s → AlertLaw t
  state : s.ctl.state ≠ .OFF → t.ctl.state ≠ .OFF
  answers : requestTags t = requestTags s
  responses : ∃ rs, t.responses = s.responses ++ rs
  report : ReportOk s.report → ReportOk t.report
  port : t.port.inFlight.isSome = true → t.port.timer = 0 ∨ (t.port.inFlight = s.port.inFlight ∧ t.port.timer = s.port.timer)
  attempt : 1 ≤ s.restore.attempt ∧ s.restore.attempt ≤ 3 → 1 ≤ t.restore.attempt ∧ t.restore.attempt ≤ 3
  meters : ∀ i, (t.meters.get i).latch = (s.meters.get i).latch ∧ (t.meters.get i).strikes = (s.meters.get i).strikes ∧
    (t.meters.get i).trip = (s.meters.get i).trip ∧ ((s.meters.get i).count ≤ 16777215 → (t.meters.get i).count ≤ 16777215)

theorem Internal.refl (s : State) : Internal s s := by
  constructor
  all_goals
    first
    | rfl
    | exact fun h => h
    | exact fun _ h => h
    | exact ⟨[], by simp⟩
    | exact fun _ => .inr ⟨rfl, rfl⟩
    | exact fun _ => ⟨rfl, rfl, rfl, id⟩

theorem Internal.trans {s t u : State} (h : Internal s t) (k : Internal t u) : Internal s u where
  retention := k.retention.trans h.retention
  cfg := k.cfg.trans h.cfg
  active := k.active.trans h.active
  staged := k.staged.trans h.staged
  window := k.window.trans h.window
  supply := k.supply.trans h.supply
  settle := k.settle.trans h.settle
  rst := k.rst.trans h.rst
  force := k.force.trans h.force
  mark := k.mark.trans h.mark
  link := k.link.trans h.link
  uptime := k.uptime.trans h.uptime
  free := k.free.trans h.free
  pending := k.pending.trans h.pending
  writes := by
    obtain ⟨a, ha, ha'⟩ := h.writes
    obtain ⟨b, hb, hb'⟩ := k.writes
    refine ⟨a ++ b, by simp [hb, ha], fun w hw => ?_⟩
    rcases List.mem_append.1 hw with hw | hw
    exacts [ha' w hw, hb' w hw]
  writeBegun := k.writeBegun.trans h.writeBegun
  enables := k.enables.trans h.enables
  flags := fun i hi => k.flags i (h.flags i hi)
  alert := fun a => k.alert (h.alert a)
  state := fun a => k.state (h.state a)
  answers := k.answers.trans h.answers
  responses := by
    obtain ⟨a, ha⟩ := h.responses
    obtain ⟨b, hb⟩ := k.responses
    exact ⟨a ++ b, by simp [hb, ha]⟩
  report := fun a => k.report (h.report a)
  port := fun a => by
    rcases k.port a with e | ⟨e1, e2⟩
    · exact .inl e
    · rcases h.port (e1 ▸ a) with e | ⟨e3, e4⟩
      · exact .inl (e2.trans e)
      · exact .inr ⟨e1.trans e3, e2.trans e4⟩
  attempt := fun a => k.attempt (h.attempt a)
  meters := fun i =>
    ⟨(k.meters i).1.trans (h.meters i).1, (k.meters i).2.1.trans (h.meters i).2.1, (k.meters i).2.2.1.trans (h.meters i).2.2.1,
      fun a => (k.meters i).2.2.2 ((h.meters i).2.2.2 a)⟩

end Sys2Proof.Machine
end

