-- ==== Sys2Proof/Laws/Operations.lean ====
section
/-! SUPPORT. Each shared operation of the running part is internal work: one lemma per operation, stated so that the lemmas chain. -/

namespace Sys2Proof.Machine

variable {s t : State}

theorem alertDrive_eq_low (run : Bool) (flags enables : BitVec 12) :
    alertDrive run flags enables = .LOW ↔ run = true ∧ ∃ k, flags.getLsbD k = true ∧ enables.getLsbD k = true := by
  have key : (flags &&& enables != 0) = true ↔ ∃ k, flags.getLsbD k = true ∧ enables.getLsbD k = true := by
    rw [bne_iff_ne]
    constructor
    · intro h
      by_contra hn
      apply h
      apply BitVec.eq_of_getLsbD_eq
      intro i _
      by_contra hc
      exact hn ⟨i, by simpa using hc⟩
    · rintro ⟨k, h1, h2⟩ h0
      have : (flags &&& enables).getLsbD k = true := by simp [h1, h2]
      rw [h0] at this
      simp at this
  unfold alertDrive
  cases run
  · simp
  · rw [Bool.true_and, ← key]
    split <;> simp_all

/-- After any write of the flags or the enables ALERT# follows its law. -/
theorem alertLaw_withEvents (flags enables : BitVec 12) (s : State) : AlertLaw (withEvents flags enables s) :=
  alertDrive_eq_low _ _ _

theorem get_set_eq {α : Type} {n : Nat} (v : Vector α n) (i : Fin n) (x : α) : (v.set i.val x i.isLt).get i = x := by
  simp [Vector.get_eq_getElem]

theorem get_set_ne {α : Type} {n : Nat} (v : Vector α n) (i j : Fin n) (x : α) (h : i ≠ j) :
    (v.set i.val x i.isLt).get j = v.get j := by
  have : i.val ≠ j.val := fun e => h (Fin.ext e)
  simp [Vector.get_eq_getElem, this]

theorem get_tabulate {α : Type} {n : Nat} (f : Fin n → α) (i : Fin n) : (tabulate f).get i = f i := by
  simp [tabulate, Vector.get_eq_getElem]

theorem internal_setEvent (e : Event) (h : Internal s t) : Internal s (setEvent e t) :=
  { h with
    flags := fun k hk => by simp [setEvent, withEvents, h.flags k hk]
    alert := fun _ => alertLaw_withEvents _ _ t }

theorem internal_askWrite {w : RetentionWrite} (hw : isRestartWrite w = false) (h : Internal s t) : Internal s (askWrite w t) := by
  obtain ⟨ws, h1, h2⟩ := h.writes
  refine { h with writes := ⟨ws ++ [w], by simp [askWrite, h1], fun x hx => ?_⟩ }
  rcases List.mem_append.1 hx with hx | hx
  · exact h2 x hx
  · rw [List.mem_singleton.1 hx, hw]

theorem internal_releasePort (h : Internal s t) : Internal s (releasePort t) := { h with }

/-- A change of the controller that does not turn it OFF. -/
theorem internal_ctl (c : Controller) (hc : t.ctl.state ≠ .OFF → c.state ≠ .OFF) (h : Internal s t) :
    Internal s { t with ctl := c } :=
  { h with state := fun a => hc (h.state a) }

/-- A change of the restore engine with the attempt in range. -/
theorem internal_restore (r : RestoreEngine)
    (hr : 1 ≤ t.restore.attempt ∧ t.restore.attempt ≤ 3 → 1 ≤ r.attempt ∧ r.attempt ≤ 3) (h : Internal s t) :
    Internal s { t with restore := r } :=
  { h with attempt := fun a => hr (h.attempt a) }

theorem internal_answerHost (st : Status) (d : List Byte) (r : Option Reason) (h : Internal s t) :
    Internal s (answerHost st d r t) := by
  unfold answerHost
  split
  · exact h
  · next job hj =>
    obtain ⟨rs, hrs⟩ := h.responses
    refine { h with
      answers := ?_
      responses := ⟨rs ++ [{ status := st, data := d, tag := job.tag, reason := r }], by simp [hrs]⟩ }
    have := h.answers
    simp only [requestTags, hj] at this ⊢
    simpa using this

theorem internal_logRefusal (k : RequestKind) (a : Addr) (z : Size) (r : Reason) (g : Option RegionNo) (h : Internal s t) :
    Internal s (logRefusal k a z r g t) := by
  unfold logRefusal
  split
  · next hlt =>
    refine { h with report := fun a => ?_ }
    obtain ⟨_, hd, hf⟩ := h.report a
    exact ⟨by simp; omega, hd, hf⟩
  · refine internal_setEvent _ { h with report := fun a => ?_ }
    obtain ⟨hl, _, hf⟩ := h.report a
    exact ⟨hl, by simp, hf⟩

theorem internal_reasonEvent (r : Reason) (h : Internal s t) : Internal s (reasonEvent r t) := by
  unfold reasonEvent
  split
  · exact internal_setEvent _ h
  · exact internal_setEvent _ h
  · exact h

theorem internal_refuseHost (r : Reason) (g : Option RegionNo) (h : Internal s t) : Internal s (refuseHost r g t) := by
  unfold refuseHost
  split
  · exact h
  · exact internal_reasonEvent _ (internal_logRefusal _ _ _ _ _ (internal_answerHost _ _ _ h))

theorem internal_recordFault (o : FaultSource) (c : Cause) (a : Addr) (e : EpochNo) (h : Internal s t) :
    Internal s (recordFault o c a e t) := by
  unfold recordFault
  refine internal_setEvent _ ?_
  split
  · refine { h with report := fun a => ?_ }
    obtain ⟨hl, hd, _⟩ := h.report a
    exact ⟨hl, hd, by simp⟩
  · refine { h with report := fun a => ?_ }
    obtain ⟨hl, hd, _⟩ := h.report a
    exact ⟨hl, hd, by simp⟩

theorem internal_meterCount (g : Option RegionNo) (z : Size) (h : Internal s t) : Internal s (meterCount g z t) := by
  unfold meterCount
  split
  · exact h
  · next i =>
    split
    · refine { h with meters := fun j => ?_ }
      obtain ⟨h1, h2, h3, h4⟩ := h.meters j
      by_cases hij : i = j
      · subst hij
        simp [putMeter, get_set_eq, countCeiling, h1, h2, h3]
      · simpa [putMeter, get_set_ne _ _ _ _ hij] using ⟨h1, h2, h3, h4⟩
    · exact h

theorem internal_postWrite (a : Addr) (z : Size) (d : List Byte) (c : WriteClass) (g : Option RegionNo) (h : Internal s t) :
    Internal s (postWrite a z d c g t) := by
  unfold postWrite
  exact internal_meterCount _ _ (internal_answerHost _ _ _ { h with })

theorem internal_moveHost (job : HostJob) (st : Stage) (g : Option RegionNo) (hh : t.host = some job) (h : Internal s t) :
    Internal s (moveHost job st g t) :=
  { h with answers := by have := h.answers; simp only [requestTags, hh] at this; simpa [moveHost, requestTags] using this }

theorem internal_startCapture (job : HostJob) (g : RegionNo) (hh : t.host = some job) (h : Internal s t) :
    Internal s (startCapture job g t) := by
  unfold startCapture
  refine internal_askWrite rfl (internal_moveHost _ _ _ ?_ { h with })
  exact hh

theorem internal_guardHost (job : HostJob) (g : RegionNo) (hh : t.host = some job) (h : Internal s t) :
    Internal s (guardHost job g t) := by
  unfold guardHost
  split
  · exact internal_postWrite _ _ _ _ _ h
  · exact internal_refuseHost _ _ h
  · exact internal_startCapture _ _ hh h

theorem internal_applyVerdict (job : HostJob) (d : Option Nat) (v : Verdict) (hh : t.host = some job) (h : Internal s t) :
    Internal s (applyVerdict job d t v) := by
  cases v <;> simp only [applyVerdict]
  · exact internal_refuseHost _ _ h
  · exact internal_answerHost _ _ _ h
  · exact internal_moveHost _ _ _ hh h
  · exact internal_moveHost _ _ _ hh h
  · exact internal_postWrite _ _ _ _ _ h
  · exact internal_guardHost _ _ hh h

theorem internal_reevaluate (h : Internal s t) : Internal s (reevaluate t) := by
  unfold reevaluate
  split
  · exact h
  · next hj =>
    split
    · exact internal_applyVerdict _ _ _ hj h
    · exact h

theorem internal_changeState (st : EpochState) (hst : st ≠ .OFF) (h : Internal s t) : Internal s (changeState st t) := by
  unfold changeState
  exact internal_reevaluate (internal_ctl _ (fun _ => hst) h)

theorem internal_enterRollback (c : RollbackCause) (h : Internal s t) : Internal s (enterRollback c t) := by
  unfold enterRollback
  exact internal_changeState _ (by simp) (internal_ctl _ id h)

theorem internal_rollbackDrainCheck (h : Internal s t) : Internal s (rollbackDrainCheck t) := by
  unfold rollbackDrainCheck
  split
  · exact internal_askWrite rfl h
  · exact h

theorem internal_faultCheck (h : Internal s t) : Internal s (faultCheck t) := by
  unfold faultCheck
  split
  · exact internal_rollbackDrainCheck (internal_enterRollback _ h)
  · exact internal_askWrite rfl h

theorem internal_commitDrainCheck (h : Internal s t) : Internal s (commitDrainCheck t) := by
  unfold commitDrainCheck
  split
  · exact internal_faultCheck h
  · exact h

theorem internal_drainCheck (h : Internal s t) : Internal s (drainCheck t) := by
  unfold drainCheck
  split
  · exact internal_commitDrainCheck h
  · exact internal_rollbackDrainCheck h
  · exact h

theorem internal_takeCommit (h : Internal s t) : Internal s (takeCommit t) := by
  unfold takeCommit
  exact internal_commitDrainCheck (internal_changeState _ (by simp) (internal_ctl _ id h))

theorem internal_commitRequest (h : Internal s t) : Internal s (commitRequest t).1 := by
  unfold commitRequest
  split
  · exact internal_takeCommit h
  · exact internal_ctl _ id h
  · exact internal_ctl _ id h
  all_goals exact h

theorem internal_enterOpen (h : Internal s t) : Internal s (enterOpen t) := by
  have k := internal_changeState .OPEN (by simp) (internal_ctl
    { t.ctl with faulted := false, stallOrigin := none, autoTimer := fullInterval t.cfg.autoInterval } id h)
  unfold enterOpen
  dsimp only
  split
  · exact internal_takeCommit (internal_ctl _ id k)
  · exact k

theorem internal_selectSlot (h : Internal s t) : Internal s (selectSlot t) := by
  unfold selectSlot
  split
  · exact internal_askWrite rfl (internal_restore _ (fun _ => ⟨by simp, by simp⟩) h)
  · split
    · exact internal_restore _ (fun _ => ⟨by simp, by simp⟩) h
    · exact internal_askWrite rfl (internal_restore _ (fun _ => ⟨by simp, by simp⟩) h)

theorem internal_startUnwind (h : Internal s t) : Internal s (startUnwind t) := by
  unfold startUnwind
  exact internal_selectSlot (internal_restore _ id h)

theorem internal_restoreToIdle (h : Internal s t) : Internal s (restoreToIdle t) := by
  unfold restoreToIdle
  exact internal_restore _ (fun _ => ⟨by simp, by simp⟩) h

theorem internal_unwindOver (h : Internal s t) : Internal s (unwindOver t) := by
  unfold unwindOver
  exact internal_enterOpen (internal_setEvent _ (internal_restoreToIdle h))

theorem internal_enterStalled (c : Cause) (h : Internal s t) : Internal s (enterStalled c t) := by
  unfold enterStalled
  refine internal_changeState _ (by simp) (internal_setEvent _ (internal_releasePort ?_))
  have k := internal_recordFault .RESTORE_WRITE c (cursorAddr t) (openEpoch t.retention) h
  exact { k with state := k.state, attempt := k.attempt }

theorem internal_abandonCapture (h : Internal s t) : Internal s (abandonCapture t) := by
  unfold abandonCapture
  split
  · exact h
  · split
    · exact internal_askWrite rfl { h with }
    · exact internal_askWrite rfl { h with }
    · split
      · exact internal_askWrite rfl { h with }
      · exact h
    · exact h

theorem internal_startHolder (o : Holder) (h : Internal s t) : Internal s (startHolder o t) := by
  unfold startHolder
  split
  · exact { h with answers := by have := h.answers; cases hh : t.host <;> simpa [requestTags, hh] using this }
  · exact { h with }
  · split
    · exact h
    · exact { h with }
  · exact internal_restore _ id h

theorem internal_grantPort (o : Holder) (h : Internal s t) : Internal s (grantPort o t) := by
  unfold grantPort
  exact internal_startHolder _ { h with }

theorem internal_issueAccess (a : AccessRequest) {u : State} (hu : issueAccess a t = some u) (h : Internal s t) : Internal s u := by
  obtain ⟨tag, -, rfl⟩ := Option.map_eq_some_iff.1 hu
  exact { h with port := fun _ => .inl rfl }

theorem internal_endHazard (h : Internal s t) : Internal s (endHazard t) := by
  unfold endHazard
  split
  · next hj =>
    split
    · exact internal_moveHost _ _ _ hj h
    · exact h
  · exact h

theorem internal_failedPost (c : Cause) (e : QueueEntry) (h : Internal s t) : Internal s (failedPost c e t) := by
  unfold failedPost
  dsimp only
  split
  · exact internal_ctl _ id (internal_recordFault _ _ _ _ h)
  · exact internal_recordFault _ _ _ _ h

theorem internal_headResult (r : PortResult) (h : Internal s t) : Internal s (headResult r t) := by
  unfold headResult
  split
  · exact internal_releasePort h
  · refine internal_drainCheck (internal_endHazard (internal_reevaluate ?_))
    cases r
    · exact internal_releasePort { h with }
    · exact internal_failedPost _ _ (internal_releasePort { h with })

theorem internal_hostReadResult (r : PortResult) (h : Internal s t) : Internal s (hostReadResult r t) := by
  unfold hostReadResult
  dsimp only
  split
  · exact internal_releasePort h
  · cases r
    · exact internal_answerHost _ _ _ (internal_releasePort h)
    · exact internal_recordFault _ _ _ _ (internal_refuseHost _ _ (internal_releasePort h))

theorem internal_abandonedReadEnds (h : Internal s t) : Internal s (abandonedReadEnds t) := by
  unfold abandonedReadEnds
  dsimp only
  split
  · exact internal_releasePort h
  · exact internal_drainCheck { internal_releasePort h with }

theorem internal_captureResult (r : PortResult) (h : Internal s t) : Internal s (captureResult r t) := by
  unfold captureResult
  split
  · exact internal_releasePort h
  · split
    · cases r
      · dsimp only
        split
        · exact internal_askWrite rfl (internal_releasePort { h with })
        · exact { h with }
      · exact internal_askWrite rfl (internal_releasePort { h with })
    · exact internal_abandonedReadEnds h
    · exact internal_releasePort h
    · exact internal_releasePort h

theorem internal_restoreResult (r : PortResult) (h : Internal s t) : Internal s (restoreResult r t) := by
  unfold restoreResult
  split
  · exact internal_releasePort h
  · cases r
    · dsimp only
      split
      · exact internal_askWrite rfl (internal_releasePort (internal_restore _ (fun _ => ⟨by simp, by simp⟩) h))
      · exact internal_restore _ (fun _ => ⟨by simp, by simp⟩) h
    · dsimp only
      split
      · exact internal_restore _ (fun k => ⟨by simp, by simp; omega⟩) h
      · exact internal_enterStalled _ h

theorem internal_holderResult (o : Holder) (r : PortResult) (h : Internal s t) : Internal s (holderResult o r t) := by
  cases o
  · exact internal_hostReadResult r h
  · exact internal_captureResult r h
  · exact internal_headResult r h
  · exact internal_restoreResult r h

theorem internal_servePort (fuel : Nat) (h : Internal s t) : Internal s (servePort fuel t) := by
  induction fuel generalizing t with
  | zero => exact h
  | succ n ih =>
    unfold servePort
    split
    · exact h
    · split
      · split
        · exact h
        · exact ih (internal_grantPort _ h)
      · split
        · exact ih (internal_releasePort h)
        · split
          · next hi => exact internal_issueAccess _ hi h
          · exact ih (internal_holderResult _ _ h)

theorem internal_arbitrate (h : Internal s t) : Internal s (arbitrate t) := by
  unfold arbitrate
  split
  · exact internal_servePort _ h
  · exact h

theorem internal_endAccess (r : PortResult) (h : Internal s t) : Internal s (endAccess r t) := by
  unfold endAccess
  have idle : Internal s { t with port := { t.port with inFlight := none, timer := 0 } } :=
    { h with port := fun x => by cases x }
  dsimp only
  split
  · exact idle
  · exact internal_holderResult _ _ idle

theorem internal_takeResponse (tag : Tag) (a : MemoryAnswer) (h : Internal s t) : Internal s (takeResponse tag a t) := by
  unfold takeResponse
  dsimp only
  split
  · exact internal_arbitrate (internal_endAccess _ h)
  · exact { h with }

theorem internal_takeResponseLimit (h : Internal s t) : Internal s (takeResponseLimit t) := by
  unfold takeResponseLimit
  split
  · exact h
  split
  · exact h
  · exact internal_arbitrate (internal_endAccess _ { h with })

theorem internal_orderTripRollback (h : Internal s t) : Internal s (orderTripRollback t) := by
  unfold orderTripRollback
  split
  · exact internal_rollbackDrainCheck (internal_enterRollback _ h)
  · exact h

theorem internal_highWaterCheck (h : Internal s t) : Internal s (highWaterCheck t) := by
  unfold highWaterCheck
  split
  · exact internal_setEvent _ h
  · exact h

theorem internal_captureFault (job : CaptureJob) (h : Internal s t) : Internal s (captureFault job t) := by
  unfold captureFault
  split
  · exact h
  · exact internal_recordFault _ _ _ _ h

end Sys2Proof.Machine
end

