-- ==== Sys2Proof/Laws/Closed.lean ====
section
/-! SUPPORT. Closed forms: each shared operation as one update of the state it is given, so that no later proof unfolds it. -/

namespace Sys2Proof.Machine

/-- The report unit's share of a fault (R138). -/
def faultTaken (source : FaultSource) (cause : Cause) (addr : Addr) (epoch : EpochNo) (uptime : BitVec 32) (r : ReportUnit) : ReportUnit :=
  match r.fault with
  | none => { r with fault := some { source := source, cause := cause, addr := addr, epoch := epoch, uptime := uptime, repeats := 0 } }
  | some f => { r with fault := some { f with repeats := min (f.repeats + 1) 255 } }

theorem setEvent_eq (e : Event) (s : State) : setEvent e s =
    { s with events :=
      { flags := s.events.flags ||| eventMask e, enables := s.events.enables
        alert := alertDrive (isRunning s) (s.events.flags ||| eventMask e) s.events.enables } } := rfl

/-- What setEvent makes of the event unit depends on the event unit and on whether the part runs. -/
theorem setEvent_events (e : Event) (s : State) : (setEvent e s).events =
    { flags := s.events.flags ||| eventMask e, enables := s.events.enables
      alert := alertDrive (isRunning s) (s.events.flags ||| eventMask e) s.events.enables } := rfl

theorem recordFault_eq (source : FaultSource) (cause : Cause) (addr : Addr) (epoch : EpochNo) (s : State) :
    recordFault source cause addr epoch s =
      { s with report := faultTaken source cause addr epoch s.uptime.ms s.report, events := (setEvent .MEMFAULT s).events } := by
  unfold recordFault faultTaken
  cases h : s.report.fault <;> rfl

/-- The report unit's share of a refusal (R132, R133). -/
def refusalTaken (record : RefusalRecord) (r : ReportUnit) : ReportUnit :=
  if r.log.length < 16 then { r with log := r.log ++ [record], nextSeq := r.nextSeq + 1 }
  else { r with dropped := min (r.dropped + 1) 255, nextSeq := r.nextSeq + 1 }

theorem logRefusal_eq (kind : RequestKind) (addr : Addr) (size : Size) (reason : Reason) (region : Option RegionNo) (s : State) :
    logRefusal kind addr size reason region s =
      { s with
        report := refusalTaken
          { seq := s.report.nextSeq, uptime := s.uptime.ms, kind := kind, addr := addr, size := size, reason := reason,
            region := region, epoch := openEpoch s.retention } s.report
        events := if s.report.log.length < 16 then s.events else (setEvent .LOG_DROP s).events } := by
  unfold logRefusal refusalTaken
  by_cases h : s.report.log.length < 16
  · simp [h]
  · simp only [h, if_false]; rfl

theorem answerHost_some (status : Status) (data : List Byte) (reason : Option Reason) {s : State} {job : HostJob} (h : s.host = some job) :
    answerHost status data reason s =
      { s with host := none, responses := s.responses ++ [{ status := status, data := data, tag := job.tag, reason := reason }] } := by
  unfold answerHost; rw [h]

theorem answerHost_none (status : Status) (data : List Byte) (reason : Option Reason) {s : State} (h : s.host = none) :
    answerHost status data reason s = s := by
  unfold answerHost; rw [h]

theorem refuseHost_some (reason : Reason) (region : Option RegionNo) {s : State} {job : HostJob} (h : s.host = some job) :
    refuseHost reason region s = reasonEvent reason (logRefusal (opKind job.op) job.addr job.size reason region
      { s with host := none, responses := s.responses ++ [{ status := .ERR, data := [], tag := job.tag, reason := some reason }] }) := by
  unfold refuseHost; rw [h]; simp only []; rw [answerHost_some _ _ _ h]

theorem reasonEvent_plain (reason : Reason) (s : State) (h1 : reason ≠ .FULL) (h2 : reason ≠ .HOLD_TIMEOUT) : reasonEvent reason s = s := by
  unfold reasonEvent; split <;> simp_all

/-- The meter unit's share of a write's entry (R117). -/
theorem meterCount_eq (region : Option RegionNo) (size : Size) (s : State) :
    meterCount region size s = { s with meters := (meterCount region size s).meters } := by
  unfold meterCount
  split
  · rfl
  · dsimp only; split <;> rfl

/-- What the meter unit makes of its records depends on the records and the active table. -/
theorem meterCount_congr (region : Option RegionNo) (size : Size) {s t : State} (ha : t.active = s.active) (hm : t.meters = s.meters) :
    (meterCount region size t).meters = (meterCount region size s).meters := by
  unfold meterCount
  split
  · exact hm
  · dsimp only; rw [ha, hm]; split
    · simp only [putMeter, hm]
    · exact hm

theorem postWrite_some (addr : Addr) (size : Size) (data : List Byte) (cls : WriteClass) (region : Option RegionNo) {s : State}
    {job : HostJob}
    (h : s.host = some job) :
    postWrite addr size data cls region s =
      { s with
        host := none
        responses := s.responses ++ [{ status := .OK, data := [], tag := job.tag, reason := none }]
        queue := s.queue ++ [{ addr := addr, size := size, data := data, cls := cls, region := region, epochTag := openEpoch s.retention,
                               inFlight := false }]
        meters := (meterCount region size s).meters } := by
  unfold postWrite
  simp only []
  rw [meterCount_eq, meterCount_congr (s := s)]
  · simp [answerHost, h]
  · simp [answerHost, h]
  · simp [answerHost, h]

/-- A re-evaluation finds nothing while no request is held (R88). -/
theorem reevaluate_noHold {s : State} (h : NoHold s) : reevaluate s = s := by
  unfold reevaluate
  split
  · rfl
  · next job hj => split
                   · next d hd => exact absurd hd (h job hj d)
                   · rfl

theorem NoHold.congr {s t : State} (h : NoHold s) (e : t.host = s.host) : NoHold t := by
  intro job hj; exact h job (e ▸ hj)

theorem changeState_noHold (st : EpochState) {s : State} (h : NoHold s) :
    changeState st s = { s with ctl := { s.ctl with state := st } } :=
  reevaluate_noHold (NoHold.congr h (by rfl))

/-- The arbiter and the port of a stopped part do nothing (R99). -/
theorem arbitrate_stopped {s : State} (h : isRunning s = false) : arbitrate s = s := by
  simp [arbitrate, h]

theorem servePort_rest (n : Nat) {s : State} (h : PortAtRest s) : servePort n s = s := by
  cases n with
  | zero => rfl
  | succ n =>
    unfold servePort
    rcases h with h | ⟨h1, h2⟩
    · simp [h]
    · by_cases hf : s.port.inFlight.isSome = true
      · simp [hf]
      · simp [hf, h1, h2]

/-- A port with nothing to decide stays as it is (R97). -/
theorem arbitrate_rest {s : State} (h : PortAtRest s) : arbitrate s = s := by
  unfold arbitrate; split
  · exact servePort_rest _ h
  · rfl

end Sys2Proof.Machine
end

