-- ==== Sys2Proof/Laws/Held.lean ====
section
/-! SUPPORT. The re-evaluation of a held request: what it reads, what it leaves alone, and what each outcome makes of the state. -/

namespace Sys2Proof.Machine

/-- The state with another MARK line and another controller. -/
def aside (m : MarkLine) (c : Controller) (s : State) : State := { s with mark := m, ctl := c }

variable (m : MarkLine) (c : Controller) (s : State)

theorem setEvent_aside (e) : setEvent e (aside m c s) = aside m c (setEvent e s) := rfl

theorem answerHost_aside (a b d) : answerHost a b d (aside m c s) = aside m c (answerHost a b d s) := by
  unfold answerHost
  rw [show (aside m c s).host = s.host from rfl]
  cases s.host <;> rfl

theorem logRefusal_aside (a b d e f) : logRefusal a b d e f (aside m c s) = aside m c (logRefusal a b d e f s) := by
  unfold logRefusal
  show (if s.report.log.length < 16 then _ else _) = _
  by_cases h : s.report.log.length < 16 <;> simp only [h] <;> rfl

theorem reasonEvent_aside (a) : reasonEvent a (aside m c s) = aside m c (reasonEvent a s) := by cases a <;> rfl

theorem refuseHost_aside (a b) : refuseHost a b (aside m c s) = aside m c (refuseHost a b s) := by
  unfold refuseHost
  rw [show (aside m c s).host = s.host from rfl]
  cases s.host <;> simp only [answerHost_aside, logRefusal_aside, reasonEvent_aside]

theorem meterCount_aside (a b) : meterCount a b (aside m c s) = aside m c (meterCount a b s) := by
  unfold meterCount
  cases a
  · rfl
  · next i =>
      dsimp only
      show (if isMetered (s.active.get i) then _ else _) = _
      split <;> rfl

theorem postWrite_aside (a b d e f) : postWrite a b d e f (aside m c s) = aside m c (postWrite a b d e f s) := by
  unfold postWrite
  dsimp only
  exact (congrArg (meterCount f b) (answerHost_aside m c { s with queue := s.queue ++ [_] } ..)).trans (meterCount_aside ..)

theorem guardHost_aside (a b) : guardHost a b (aside m c s) = aside m c (guardHost a b s) := by
  unfold guardHost
  rw [show guardedWriteDecision (aside m c s) (lineOf a.addr) = guardedWriteDecision s (lineOf a.addr) from rfl]
  cases guardedWriteDecision s (lineOf a.addr) with
  | PROCEED => exact postWrite_aside ..
  | FULL => exact refuseHost_aside ..
  | CAPTURE => rfl

theorem applyVerdict_aside (a b v) : applyVerdict a b (aside m c s) v = aside m c (applyVerdict a b s v) := by
  cases v with
  | REFUSE x y => exact refuseHost_aside ..
  | UNLOGGED => exact answerHost_aside ..
  | HOLD x => rfl
  | READ x => rfl
  | POST x => exact postWrite_aside ..
  | GUARD x => exact guardHost_aside ..

theorem evaluate_aside (job) (h : c.state = s.ctl.state) : evaluate (aside m c s) job = evaluate s job := by
  unfold evaluate evaluateLookedUp isHeldAt
  show (match c.state with | .OFF => _ | .RECOVERY => _ | .STALLED => _ | .OPEN | .DRAINING | .ROLLBACK => _) = _
  simp only [show (aside m c s).ctl.state = s.ctl.state from h, h]
  rfl

/-- A re-evaluation reads nothing of the controller but its state, and nothing of MARK, and leaves both alone. -/
theorem reevaluate_aside (h : c.state = s.ctl.state) : reevaluate (aside m c s) = aside m c (reevaluate s) := by
  unfold reevaluate
  rw [show (aside m c s).host = s.host from rfl]
  cases s.host with
  | none => rfl
  | some j =>
    dsimp only
    split
    · rw [evaluate_aside m c s j h, applyVerdict_aside]
    · rfl

/-- What the answer of a request in progress may change: the host port, the report unit and the event unit. -/
structure HostAnswered (s t : State) : Prop where
  same : t = { s with host := t.host, responses := t.responses, report := t.report, events := t.events }

theorem HostAnswered.trans {s t u : State} (h : HostAnswered s t) (k : HostAnswered t u) : HostAnswered s u :=
  ⟨by rw [k.same, h.same]⟩

theorem HostAnswered.writes {s t : State} (h : HostAnswered s t) : t.writes = s.writes := by rw [h.same]
theorem HostAnswered.ctl {s t : State} (h : HostAnswered s t) : t.ctl = s.ctl := by rw [h.same]
theorem HostAnswered.retention {s t : State} (h : HostAnswered s t) : t.retention = s.retention := by rw [h.same]
theorem HostAnswered.drained {s t : State} (h : HostAnswered s t) : isDrained t = isDrained s := by rw [h.same]; rfl

theorem answered_refl : HostAnswered s s := ⟨rfl⟩

theorem answered_answerHost (a b d) : HostAnswered s (answerHost a b d s) := by
  unfold answerHost; split <;> exact ⟨rfl⟩

theorem answered_logRefusal (a b d e f) : HostAnswered s (logRefusal a b d e f s) := ⟨by rw [logRefusal_eq]⟩

theorem answered_reasonEvent (a) : HostAnswered s (reasonEvent a s) := by
  unfold reasonEvent; split <;> exact ⟨rfl⟩

theorem answered_refuseHost (a b) : HostAnswered s (refuseHost a b s) := by
  unfold refuseHost
  split
  · exact ⟨rfl⟩
  · exact (answered_answerHost s _ _ _).trans ((answered_logRefusal _ _ _ _ _ _).trans (answered_reasonEvent _ _))

/-- In a state other than OPEN nothing is let go into the queue or to the journal (R82, R85). -/
theorem evaluate_closed {s : State} (h : s.ctl.state ≠ .OPEN) (job : HostJob) :
    (∀ r, evaluate s job ≠ .POST r) ∧ ∀ i, evaluate s job ≠ .GUARD i := by
  unfold evaluate
  have key : s.ctl.state = .DRAINING ∨ s.ctl.state = .ROLLBACK → ∀ kind region,
      (∀ r, evaluateLookedUp s kind region ≠ .POST r) ∧ ∀ i, evaluateLookedUp s kind region ≠ .GUARD i := by
    intro hs kind region
    unfold evaluateLookedUp
    dsimp only
    split
    · exact ⟨fun _ => Verdict.noConfusion, fun _ => Verdict.noConfusion⟩
    · split
      · exact ⟨fun _ => Verdict.noConfusion, fun _ => Verdict.noConfusion⟩
      · split
        · exact ⟨fun _ => Verdict.noConfusion, fun _ => Verdict.noConfusion⟩
        · next hn =>
          cases kind with
          | READ => exact ⟨fun _ => Verdict.noConfusion, fun _ => Verdict.noConfusion⟩
          | WRITE => rcases hs with e | e <;> simp [isHeldAt, e] at hn
  split
  · exact ⟨fun _ => Verdict.noConfusion, fun _ => Verdict.noConfusion⟩
  · exact ⟨fun _ => Verdict.noConfusion, fun _ => Verdict.noConfusion⟩
  · exact ⟨fun _ => Verdict.noConfusion, fun _ => Verdict.noConfusion⟩
  · next e => exact absurd e h
  all_goals
    split
    · exact key (by simp [*]) _ _
    · exact ⟨fun _ => Verdict.noConfusion, fun _ => Verdict.noConfusion⟩

/-- In a state other than OPEN a re-evaluation changes the host port, the report unit and the event unit alone. -/
theorem reevaluate_closed {s : State} (h : s.ctl.state ≠ .OPEN) : HostAnswered s (reevaluate s) := by
  unfold reevaluate
  split
  · exact ⟨rfl⟩
  · next job _ =>
    split
    · have k := evaluate_closed h job
      cases hv : evaluate s job with
      | REFUSE a b => exact answered_refuseHost s a b
      | UNLOGGED => exact answered_answerHost s _ _ _
      | HOLD r => exact ⟨rfl⟩
      | READ r => exact ⟨rfl⟩
      | POST r => exact absurd hv (k.1 r)
      | GUARD i => exact absurd hv (k.2 i)
    · exact ⟨rfl⟩

theorem answerHost_ctl (a b d) : (answerHost a b d s).ctl = s.ctl := by unfold answerHost; split <;> rfl

theorem refuseHost_ctl (a b) : (refuseHost a b s).ctl = s.ctl := by rw [(answered_refuseHost s a b).same]

theorem postWrite_ctl (a b d e f) : (postWrite a b d e f s).ctl = s.ctl := by
  unfold postWrite; rw [meterCount_eq]; exact answerHost_ctl ..

/-- A re-evaluation leaves the controller alone. -/
theorem reevaluate_ctl : (reevaluate s).ctl = s.ctl := by
  unfold reevaluate
  split
  · rfl
  · split
    · cases evaluate s _ with
      | REFUSE a b => exact refuseHost_ctl s a b
      | UNLOGGED => exact answerHost_ctl s _ _ _
      | HOLD r => rfl
      | READ r => rfl
      | POST r => exact postWrite_ctl ..
      | GUARD i =>
        show (guardHost _ i s).ctl = _
        unfold guardHost
        split
        · exact postWrite_ctl ..
        · exact refuseHost_ctl ..
        · rfl
    · rfl

end Sys2Proof.Machine
end

