-- ==== Sys2Proof/Laws/Journal.lean ====
section
/-! SUPPORT. The journal's queries over its shape (R6, R8), and the changes that keep the shape: a slot put, a header replaced (R5 to
R7). -/

namespace Sys2Proof.Machine

/-- A number below 256 is that slot's number. -/
theorem slotOfNat_lt {n : Nat} (h : n < 256) : slotOfNat n = some ⟨n, h⟩ := by simp [slotOfNat, h]

/-- FREE slots do not change the newest one found so far (R8). -/
theorem newestFrom_free (l : List Slot) : ∀ (n : Nat) (b : Option (Nat × BitVec 8)), (∀ x ∈ l, x.state = .FREE) → newestFrom l n b = b := by
  induction l with
  | nil => intros; rfl
  | cons x l ih =>
    intro n b h
    unfold newestFrom
    rw [h x (by simp)]
    simp only [beq_self_eq_true, if_true]
    exact ih _ _ (fun y hy => h y (by simp [hy]))

/-- Of slots whose first m are taken, with the sequences n to n+m-1, the last of them is the newest (R6, R8). -/
theorem newestFrom_dense (l : List Slot) : ∀ (n m : Nat) (b : Option (Nat × BitVec 8)), m ≤ l.length → n + m ≤ 256 →
    (∀ j (hj : j < l.length), l[j].state ≠ .FREE ↔ j < m) → (∀ j (hj : j < l.length), j < m → l[j].seq = BitVec.ofNat 8 (n + j)) →
    (∀ x, b = some x → x.2.toNat < n) →
    newestFrom l n b = if m = 0 then b else some (n + m - 1, BitVec.ofNat 8 (n + m - 1)) := by
  induction l with
  | nil => intro n m b h _ _ _ _; simp at h; simp [h, newestFrom]
  | cons x l ih =>
    intro n m b hm hb hd hs hx
    unfold newestFrom
    cases m with
    | zero =>
      have h0 := hd 0 (by simp)
      simp at h0
      rw [h0]; simp only [beq_self_eq_true, if_true]
      apply newestFrom_free
      intro y hy
      obtain ⟨j, hj, rfl⟩ := List.getElem_of_mem hy
      have := hd (j + 1) (by simp; omega)
      simpa using this
    | succ m =>
      have h0 := (hd 0 (by simp)).2 (by omega)
      have s0 := hs 0 (by simp) (by omega)
      simp only [List.getElem_cons_zero, Nat.add_zero] at h0 s0
      have hne : (x.state == SlotState.FREE) = false := by simpa using h0
      rw [hne]
      simp only [Bool.false_eq_true, if_false]
      have key : newestFrom l (n + 1) (some (n, BitVec.ofNat 8 n)) = some (n + (m + 1) - 1, BitVec.ofNat 8 (n + (m + 1) - 1)) := by
        rw [ih (n + 1) m _ (by simpa using hm) (by omega) (fun j hj => by
            have := hd (j + 1) (by simpa using hj)
            simp only [List.getElem_cons_succ, Nat.add_lt_add_iff_right] at this
            exact this)
          (fun j hj hjm => by
            have := hs (j + 1) (by simpa using hj) (by omega)
            simp only [List.getElem_cons_succ] at this
            rw [this]
            congr 1
            omega)
          (fun y hy => by
            cases hy
            simp only
            rw [BitVec.toNat_ofNat]
            have := Nat.mod_le n (2^8)
            omega)]
        by_cases h : m = 0
        · simp [h]
        · simp only [h, if_false]
          congr 2 <;> first | omega | (congr 1; omega)
      cases b with
      | none =>
        show newestFrom l (n + 1) (some (n, x.seq)) = _
        rw [s0]
        exact key
      | some y =>
        obtain ⟨k, sq⟩ := y
        have hk := hx _ rfl
        simp only at hk
        show newestFrom l (n + 1) (if sq.toNat < x.seq.toNat then some (n, x.seq) else some (k, sq)) = _
        rw [s0, if_pos (by rw [BitVec.toNat_ofNat, Nat.mod_eq_of_lt (by omega)]; exact hk)]
        exact key

variable {r : Retention}

/-- The slots as a list. -/
theorem get_list (r : Retention) (k : SlotNo) : r.slots.toList[k.val]'(by simp) = r.slots.get k := by
  simp [Vector.get_eq_getElem]

/-- With a slot left the lowest FREE one is the one that the count names (R6). -/
theorem lowestFree_dense (h : JournalShape r) (hc : r.header.count < 256) : lowestFree r = some ⟨r.header.count, hc⟩ := by
  have : r.slots.toList.findIdx? (fun slot => slot.state == .FREE) = some r.header.count := by
    rw [List.findIdx?_eq_some_iff_getElem]
    refine ⟨by simpa using hc, ?_, ?_⟩
    · have := get_list r ⟨r.header.count, hc⟩
      have hn := (h.dense ⟨r.header.count, hc⟩).not
      simp only [Taken, not_not, Nat.lt_irrefl, not_false_eq_true, iff_true] at hn
      rw [beq_iff_eq]; rw [← hn]; exact congrArg Slot.state this
    · intro j hj
      have hj' : j < 256 := by omega
      have := get_list r ⟨j, hj'⟩
      have hn := (h.dense ⟨j, hj'⟩).2 hj
      simp only [Taken] at hn
      rw [Bool.not_eq_true, beq_eq_false_iff_ne]
      intro e; apply hn; rw [← e]; exact (congrArg Slot.state this).symm
  unfold lowestFree; rw [this]; exact slotOfNat_lt hc

/-- A full journal has no FREE slot (R3, R6). -/
theorem lowestFree_full (h : JournalShape r) (hc : r.header.count = 256) : lowestFree r = none := by
  have : r.slots.toList.findIdx? (fun slot => slot.state == .FREE) = none := by
    rw [List.findIdx?_eq_none_iff]
    intro x hx
    obtain ⟨j, hj, rfl⟩ := List.getElem_of_mem hx
    have hj' : j < 256 := by simpa using hj
    have e := get_list r ⟨j, hj'⟩
    have := (h.dense ⟨j, hj'⟩).2 (by rw [hc]; exact hj')
    simp only [Taken] at this
    simp only at e
    rw [e]; simpa using this
  unfold lowestFree; rw [this]; rfl

/-- An empty journal has no newest slot (R8). -/
theorem newest_none (hc : r.header.count = 0) : newestSlot r = none := by simp [newestSlot, hc]

/-- A journal that is not empty has its newest slot at count-1 (R8). -/
theorem newest_dense (h : JournalShape r) (hc : r.header.count ≠ 0) : ∃ k, newestSlot r = some k ∧ k.val + 1 = r.header.count := by
  have hb := h.bound
  refine ⟨⟨r.header.count - 1, by omega⟩, ?_, by simp; omega⟩
  unfold newestSlot
  rw [if_neg hc, newestFrom_dense _ 0 r.header.count none (by simpa using hb) (by omega) ?_ ?_ (by simp)]
  · rw [if_neg hc]
    simp only [Option.bind_some, Nat.zero_add]
    exact slotOfNat_lt _
  · intro j hj
    have hj' : j < 256 := by simpa using hj
    have e := get_list r ⟨j, hj'⟩
    simp only at e
    rw [e]; exact h.dense ⟨j, hj'⟩
  · intro j hj hjm
    have hj' : j < 256 := by simpa using hj
    have e := get_list r ⟨j, hj'⟩
    simp only at e
    rw [e, Nat.zero_add]; exact h.seq ⟨j, hj'⟩ ((h.dense ⟨j, hj'⟩).2 hjm)

/-- The newest slot is the one at count-1 (R8). -/
theorem newest_eq (h : JournalShape r) (k : SlotNo) (hk : k.val + 1 = r.header.count) : newestSlot r = some k := by
  obtain ⟨j, hj, e⟩ := newest_dense h (by omega)
  rw [hj]; congr 1; exact Fin.ext (by omega)

/-- The slot put is the one read. -/
theorem get_put_eq (r : Retention) (k : SlotNo) (x : Slot) : (putSlot r k x).slots.get k = x := get_set_eq _ _ _

/-- The other slots stay. -/
theorem get_put_ne (r : Retention) (k j : SlotNo) (x : Slot) (h : k ≠ j) : (putSlot r k x).slots.get j = r.slots.get j :=
    get_set_ne _ _ _ _ h

/-- The journal keeps its shape when one slot is put, beside a header that counts it (R5, R6, R7). -/
theorem shape_put (h : JournalShape r) (k : SlotNo) (x : Slot) (hd : Header) (hist : List OutcomeRecord)
    (hb : hd.count ≤ 256) (dense : ∀ j, (if j = k then x.state ≠ .FREE else Taken r j) ↔ j.val < hd.count)
    (free : x.state = .FREE → x = freeSlot) (seq : x.state ≠ .FREE → x.seq = BitVec.ofNat 8 k.val)
    (line : x.state ≠ .FREE → ∀ j, j ≠ k → Taken r j → (r.slots.get j).line ≠ x.line)
    (image : x.image.isSome = true ↔ x.state = .COMPLETE)
    (next : hd.state ≠ .UNWINDING → hd.nextSeq = BitVec.ofNat 8 hd.count) (empty : hd.state = .EMPTY → hd.count = 0)
    (cause : hd.cause.isSome = true ↔ hd.state = .UNWINDING) :
    JournalShape { putSlot r k x with header := hd, history := hist } := by
  have get : ∀ j, (putSlot r k x).slots.get j = if j = k then x else r.slots.get j := by
    intro j; split
    · next e => subst e; exact get_put_eq r j x
    · next e => exact get_put_ne r k j x (Ne.symm e)
  have tk : ∀ j, Taken { putSlot r k x with header := hd, history := hist } j ↔ if j = k then x.state ≠ .FREE else Taken r j := by
    intro j; simp only [Taken]; rw [get]; split <;> exact Iff.rfl
  refine ⟨fun j => (tk j).trans (dense j), hb, ?_, ?_, next, ?_, ?_, empty, cause⟩
  · intro j hj; rw [tk] at hj; simp only; rw [get]
    split at hj
    · next e => rw [if_pos e]; exact free (not_not.1 hj)
    · next e => rw [if_neg e]; exact h.free j hj
  · intro j hj; rw [tk] at hj; simp only; rw [get]
    split at hj
    · next e => rw [if_pos e, e]; exact seq hj
    · next e => rw [if_neg e]; exact h.seq j hj
  · intro i j hi hj; rw [tk] at hi hj; simp only; rw [get, get]
    split at hi <;> split at hj <;> rename_i a b <;> intro hl
    · rw [a, b]
    · rw [if_pos a, if_neg b] at hl; exact absurd hl.symm (line hi j b hj)
    · rw [if_neg a, if_pos b] at hl; exact absurd hl (line hj i a hi)
    · rw [if_neg a, if_neg b] at hl; exact h.distinct i j hi hj hl
  · intro j; simp only; rw [get]; split
    · exact image
    · exact h.image j

/-- The journal keeps its shape when its header changes with its count kept (R3, R6). -/
theorem shape_hd (h : JournalShape r) (hd : Header) (hist : List OutcomeRecord) (hc : hd.count = r.header.count)
    (next : hd.state ≠ .UNWINDING → hd.nextSeq = BitVec.ofNat 8 hd.count) (empty : hd.state = .EMPTY → hd.count = 0)
    (cause : hd.cause.isSome = true ↔ hd.state = .UNWINDING) : JournalShape { r with header := hd, history := hist } :=
  ⟨fun k => by have := h.dense k; simp only [Taken] at *; rw [hc]; exact this, by simp only; rw [hc]; exact h.bound, h.free, h.seq,
    next, h.distinct, h.image, empty, cause⟩

/-- A journal of FREE slots has its shape (R3, R5). -/
theorem shape_empty (hd : Header) (hist : List OutcomeRecord) (l : Bool) (hc : hd.count = 0) (hn : hd.nextSeq = 0)
    (hs : hd.state ≠ .UNWINDING) (ha : hd.cause = none) :
    JournalShape { header := hd, slots := Vector.replicate 256 freeSlot, history := hist, latch := l } := by
  have g : ∀ k : SlotNo, (Vector.replicate 256 freeSlot).get k = freeSlot := by intro k; simp [Vector.get_eq_getElem]
  have nt : ∀ k, ¬ Taken { header := hd, slots := Vector.replicate 256 freeSlot, history := hist, latch := l } k := by
    intro k; simp [Taken, freeSlot]
  refine ⟨fun k => ⟨fun x => absurd x (nt k), fun x => by simp only at x; omega⟩, by simp only; omega, fun k _ => g k,
    fun k x => absurd x (nt k), fun _ => by simp only; rw [hn, hc]; rfl, fun j k x => absurd x (nt j), fun k => ?_, fun _ => hc, ?_⟩
  · simp only; rw [g]; simp [freeSlot]
  · simp only; rw [ha]; simp [hs]

/-- The journal keeps its shape when its newest slot is freed (R12, R15). -/
theorem shape_release (h : JournalShape r) (k : SlotNo) (hk : k.val + 1 = r.header.count) (hd : Header) (hist : List OutcomeRecord)
    (hc : hd.count = r.header.count - 1) (next : hd.state ≠ .UNWINDING → hd.nextSeq = BitVec.ofNat 8 hd.count)
    (empty : hd.state = .EMPTY → hd.count = 0) (cause : hd.cause.isSome = true ↔ hd.state = .UNWINDING) :
    JournalShape { putSlot r k freeSlot with header := hd, history := hist } := by
  refine shape_put h k freeSlot hd hist (by have := h.bound; omega) ?_ (fun _ => rfl) (fun x => absurd rfl x) (fun x => absurd rfl x)
    (by simp [freeSlot]) next empty cause
  intro j; split
  · next e => subst e; constructor
              · intro x; exact absurd rfl x
              · intro x; omega
  · next e => rw [h.dense j]; have : j.val ≠ k.val := fun x => e (Fin.ext x); omega

/-- No unwind, no unwind cause (R3). -/
theorem cause_none (h : JournalShape r) (hu : r.header.state ≠ .UNWINDING) : r.header.cause = none := by
  have := h.cause.not.2 hu
  simpa using this

end Sys2Proof.Machine
end

