-- ==== Sys2Proof/Laws/EpochAdmission.lean ====
section
/-! SUPPORT. The law of a running part's journal (Safety) over the operations of admission and the reports: what they may change of it. -/

namespace Sys2Proof.Machine

variable {s t u : State}

/-- What the law of the journal reads of a state, but for the host port. -/
structure JournalView (s t : State) : Prop where
  retention : t.retention = s.retention
  writes : t.writes = s.writes
  index : t.index = s.index
  capture : t.capture = s.capture
  queue : t.queue = s.queue
  restore : t.restore = s.restore
  state : t.ctl.state = s.ctl.state
  cause : t.ctl.cause = s.ctl.cause
  origin : t.ctl.stallOrigin = s.ctl.stallOrigin
  arbiter : t.arbiter = s.arbiter

/-- A view of the state itself. -/
theorem JournalView.refl (s : State) : JournalView s s := ⟨rfl, rfl, rfl, rfl, rfl, rfl, rfl, rfl, rfl, rfl⟩

/-- Views compose. -/
theorem JournalView.trans (h : JournalView s t) (k : JournalView t u) : JournalView s u :=
  ⟨k.retention.trans h.retention, k.writes.trans h.writes, k.index.trans h.index, k.capture.trans h.capture, k.queue.trans h.queue,
    k.restore.trans h.restore, k.state.trans h.state, k.cause.trans h.cause, k.origin.trans h.origin, k.arbiter.trans h.arbiter⟩

/-- The answer of a request changes nothing else that the law reads. -/
theorem HostAnswered.view (h : HostAnswered s t) : JournalView s t := by
    rw [h.same]; exact ⟨rfl, rfl, rfl, rfl, rfl, rfl, rfl, rfl, rfl, rfl⟩

/-- The law of a running part, with its shape and its counters. -/
structure Lawful (s : State) : Prop where
  law : EpochLaw s
  shape : JournalShape s.retention
  turns : s.arbiter.hostCount ≤ 4
  restored : s.restore.restored ≤ 256

/-- Filled is read from what a view keeps. -/
theorem Filled.view {job : CaptureJob} (h : Filled s job) (e : t.retention = s.retention) : Filled t job := by
    unfold Filled; rw [e]; exact h

/-- NewLine is read from what a view keeps. -/
theorem NewLine.view {job : CaptureJob} (h : NewLine s job) (e : t.retention = s.retention) : NewLine t job := by
    unfold NewLine; rw [e]; exact h

/-- CapturePhase is read from what a view keeps. -/
theorem CapturePhase.view {job : CaptureJob} (p : CapturePhase s job) (v : JournalView s t) (k : HostCaptures s → HostCaptures t) :
    CapturePhase t job := by
  cases p with
  | allocating st w n e h => exact .allocating st (v.writes.trans w) (n.view v.retention) e (k h)
  | waiting st w f e h => exact .waiting st (v.writes.trans w) (f.view v.retention) e (k h)
  | reading st w g f e h => exact .reading st (v.writes.trans w) (by rw [v.arbiter]; exact g) (f.view v.retention) e (k h)
  | completing st w g f e h => exact .completing st (v.writes.trans w) (by rw [v.arbiter]; exact g) (f.view v.retention) e (k h)
  | failing st w g f e h => exact .failing st (v.writes.trans w) (by rw [v.arbiter]; exact g) (f.view v.retention) e (k h)
  | abandonedEarly st o w n e h => exact .abandonedEarly st (v.state.trans o) (v.writes.trans w) (n.view v.retention) e (k h)
  | abandoned st o w f e h => exact .abandoned st (v.state.trans o) (v.writes.trans w) (f.view v.retention) e (k h)
  | released st o w e f => exact .released st (v.state.trans o) (v.writes.trans w) e (by rw [v.retention]; exact f)

/-- Work is read from what a view keeps. -/
theorem Work.view (h : Work s) (v : JournalView s t) (k : HostCaptures s → HostCaptures t) : Work t := by
  cases h with
  | idle p c w r h => exact .idle (by rw [v.state]; exact p) (v.capture.trans c) (v.writes.trans w) (by rw [v.restore]; exact r) (by rw [v.retention]; exact h)
  | capturing job p c r h l x =>
    exact .capturing job (by rw [v.state]; exact p) (v.capture.trans c) (by rw [v.restore]; exact r) (by
        rw [v.retention]; exact h) l (x.view v k)
  | sealing p q c r w h =>
      exact .sealing (v.state.trans p) (v.queue.trans q) (v.capture.trans c) (by rw [v.restore]; exact r) (v.writes.trans w) (by
      rw [v.retention]; exact h)
  | clearing p q c r w h =>
      exact .clearing (by rw [v.state]; exact p) (v.queue.trans q) (v.capture.trans c) (by rw [v.restore]; exact r) (v.writes.trans w) (by
      rw [v.retention]; exact h)
  | marking p q c r w h =>
      exact .marking (by rw [v.state]; exact p) (v.queue.trans q) (v.capture.trans c) (by rw [v.restore]; exact r) (v.writes.trans w) (by
      rw [v.retention]; exact h)
  | restoring n q c h p w cur new full nn =>
    exact .restoring n (v.queue.trans q) (v.capture.trans c) (by rw [v.retention]; exact h) (by rw [v.state, v.restore]; exact p) (by
        rw [v.writes]; exact w)
      (by rw [v.restore]; exact cur) (by rw [v.retention]; exact new) (by rw [v.retention]; exact full) (by
          rw [v.retention, v.restore]; exact nn)
  | retiring x q c h p r kk w =>
    exact .retiring x (v.queue.trans q) (v.capture.trans c) (by rw [v.retention]; exact h) (by rw [v.state]; exact p) (by
        rw [v.restore]; exact r)
      (by rw [v.retention, v.restore]; exact kk) (by rw [v.writes]; exact w)

/-- The epoch state as the journal sees it is read from the controller. -/
theorem journalState_view (v : JournalView s t) : journalState t = journalState s := by unfold journalState; rw [v.state, v.origin]

/-- Nothing that the law reads changes but the request in progress. -/
theorem Lawful.view (h : Lawful s) (v : JournalView s t) (k : HostCaptures s → HostCaptures t) (r : HostCaptures t → s.queue.length ≤ 7)
    (m : s.arbiter.grant = some .HOST_READ → ∃ req, t.host = some req ∧ req.stage = .AT_MEMORY) : Lawful t where
  law :=
    { latch := by rw [v.retention]; exact h.law.latch
      indexed := by rw [v.retention, v.index]; exact h.law.indexed
      complete := by rw [journalState_view v, v.retention, v.index]; exact h.law.complete
      filling := by rw [journalState_view v, v.retention, v.capture]; exact h.law.filling
      guarded := by rw [v.queue, v.retention]; exact h.law.guarded
      work := h.law.work.view v k
      room := by rw [v.queue]; exact ⟨h.law.room.1, r⟩
      flight := by rw [v.queue, v.arbiter]; exact h.law.flight
      read := by rw [v.arbiter]; exact m
      cause := by rw [v.state, v.retention, v.cause]; exact h.law.cause
      origin := by rw [v.state, v.origin]; exact h.law.origin }
  shape := by rw [v.retention]; exact h.shape
  turns := by rw [v.arbiter]; exact h.turns
  restored := by rw [v.restore]; exact h.restored

/-- Nothing that the law reads changes. -/
theorem Lawful.frame (h : Lawful s) (v : JournalView s t) (k : t.host = s.host) : Lawful t :=
  h.view v (by unfold HostCaptures; rw [k]; exact id) (by unfold HostCaptures; rw [k]; exact h.law.room.2) (by rw [k]; exact h.law.read)

/-- An event keeps the law of a running part's journal. -/
theorem lawful_setEvent (e : Event) (h : Lawful s) : Lawful (setEvent e s) := h.frame ⟨rfl, rfl, rfl, rfl, rfl, rfl, rfl, rfl, rfl, rfl⟩ rfl

/-- A fault record keeps the law of a running part's journal. -/
theorem lawful_recordFault (a b c d) (h : Lawful s) : Lawful (recordFault a b c d s) := by
  rw [recordFault_eq]; exact h.frame ⟨rfl, rfl, rfl, rfl, rfl, rfl, rfl, rfl, rfl, rfl⟩ rfl

/-- A meter count keeps the law of a running part's journal. -/
theorem lawful_meterCount (a b) (h : Lawful s) : Lawful (meterCount a b s) := by
  rw [meterCount_eq]; exact h.frame ⟨rfl, rfl, rfl, rfl, rfl, rfl, rfl, rfl, rfl, rfl⟩ rfl

/-- No capture and no granted read waits for the request in progress. -/
structure HostFree (s : State) : Prop where
  captures : ¬ HostCaptures s
  grant : s.arbiter.grant ≠ some .HOST_READ

/-- The request in progress changes where nothing waits for it. -/
theorem Lawful.host (h : Lawful s) (f : HostFree s) (v : JournalView s t) (n : ¬ HostCaptures t) : Lawful t :=
  h.view v (fun x => absurd x f.captures) (fun x => absurd x n) (fun x => absurd x f.grant)

/-- After an answer no request is in progress. -/
theorem answerHost_none_host (a b c) : (answerHost a b c s).host = none := by
  unfold answerHost; split
  · assumption
  · rfl

/-- With no request in progress no request waits for a capture. -/
theorem none_captures (h : t.host = none) : ¬ HostCaptures t := by rintro ⟨r, e, -⟩; rw [h] at e; cases e

/-- The event of a refusal leaves the request alone. -/
theorem reasonEvent_host (a) (s : State) : (reasonEvent a s).host = s.host := by unfold reasonEvent; split <;> rfl

/-- After a refusal no request is in progress. -/
theorem refuseHost_host (a b) (s : State) : (refuseHost a b s).host = none := by
  unfold refuseHost; split
  · assumption
  · rw [reasonEvent_host, logRefusal_eq]; exact answerHost_none_host ..

/-- An answer keeps the law of a running part's journal. -/
theorem lawful_answerHost (a b c) (h : Lawful s) (f : HostFree s) : Lawful (answerHost a b c s) :=
  h.host f (answered_answerHost s a b c).view (none_captures (answerHost_none_host ..))

/-- A refusal keeps the law of a running part's journal. -/
theorem lawful_refuseHost (a b) (h : Lawful s) (f : HostFree s) : Lawful (refuseHost a b s) :=
  h.host f (answered_refuseHost s a b).view (none_captures (refuseHost_host ..))

/-- The request in progress moves on in a stage where no capture waits for it. -/
theorem lawful_moveHost (job : HostJob) (a b) (h : Lawful s) (f : HostFree s) (ha : a ≠ .CAPTURING) : Lawful (moveHost job a b s) :=
  h.host f ⟨rfl, rfl, rfl, rfl, rfl, rfl, rfl, rfl, rfl, rfl⟩ (by rintro ⟨r, e, k⟩; cases e; exact ha k)

/-- A request that waits for no capture and reads nothing leaves the host port free to answer. -/
theorem host_free (h : Lawful s) {job : HostJob} (hh : s.host = some job) (h1 : job.stage ≠ .CAPTURING) (h2 : job.stage ≠ .AT_MEMORY) :
    HostFree s := by
  refine ⟨?_, ?_⟩
  · rintro ⟨req, e, k⟩; rw [hh] at e; cases e; exact h1 k
  · intro hg; obtain ⟨req, e, k⟩ := h.law.read hg; rw [hh] at e; cases e; exact h2 k

/-- In OPEN, with no capture waiting for the host, nothing works on the journal. -/
theorem open_idle (h : Lawful s) (ho : s.ctl.state = .OPEN) (f : ¬ HostCaptures s) :
    s.capture = none ∧ s.writes = [] ∧ s.restore.state = .IDLE ∧ (s.retention.header.state = .EMPTY ∨ s.retention.header.state = .OPEN) :=
        by
  have st : ∀ x, x ≠ EpochState.OPEN → s.ctl.state = x → False := fun x hx e => hx (e.symm.trans ho)
  cases h.law.work with
  | idle p c w r h => exact ⟨c, w, r, h⟩
  | capturing job p c r h l x =>
    cases x with
    | allocating _ _ _ _ k => exact absurd k f
    | waiting _ _ _ _ k => exact absurd k f
    | reading _ _ _ _ _ k => exact absurd k f
    | completing _ _ _ _ _ k => exact absurd k f
    | failing _ _ _ _ _ k => exact absurd k f
    | abandonedEarly _ o => exact (st _ (by simp) o).elim
    | abandoned _ o => exact (st _ (by simp) o).elim
    | released _ o => exact (st _ (by simp) o).elim
  | sealing p => exact (st _ (by simp) p).elim
  | clearing p => rcases p with p | p <;> exact (st _ (by simp) p).elim
  | marking p => rcases p with p | p <;> exact (st _ (by simp) p).elim
  | restoring k q c h p => rcases p with ⟨p | p, -⟩ | ⟨p, -⟩ <;> exact (st _ (by simp) p).elim
  | retiring x q c h p => rcases p with p | p <;> exact (st _ (by simp) p).elim

/-- In OPEN the journal sees OPEN. -/
theorem journalState_open (ho : s.ctl.state = .OPEN) : journalState s = .OPEN := by unfold journalState; rw [ho]; rfl

/-- A write enters the queue in OPEN (R91, R92). -/
theorem lawful_post (h : Lawful s) (ho : s.ctl.state = .OPEN) (f : HostFree s) (a b c d e) (hq : s.queue.length < 8)
    (hg : d = .GUARDED → ∃ k, (s.retention.slots.get k).state = .COMPLETE ∧ (s.retention.slots.get k).line = lineOf a) :
    Lawful (postWrite a b c d e s) := by
  obtain ⟨c0, w0, r0, h0⟩ := open_idle h ho f.captures
  unfold postWrite
  refine lawful_meterCount _ _ ?_
  have v := (answered_answerHost
      { s with queue := s.queue ++ [{ addr := a, size := b, data := c, cls := d, region := e, epochTag := openEpoch s.retention, inFlight := false }] } .OK [] none)
  have base : Lawful { s with host := none, queue := s.queue ++ [{ addr := a, size := b, data := c, cls := d, region := e, epochTag := openEpoch s.retention, inFlight := false }] } :=
    { law :=
      { latch := h.law.latch, indexed := h.law.indexed, complete := h.law.complete, filling := h.law.filling
        guarded := fun x hx hc => by
          rcases List.mem_append.1 hx with hx | hx
          · exact h.law.guarded x hx hc
          · simp only [List.mem_singleton] at hx; subst hx; exact hg hc
        work := .idle (.inl ho) c0 w0 r0 h0
        room := ⟨by simp; omega, fun x => absurd x (none_captures rfl)⟩
        flight := by
          obtain ⟨f1, f2⟩ := h.law.flight
          refine ⟨fun x hx => ?_, fun hgr x hx => ?_⟩
          · cases hs : s.queue with
            | nil => rw [hs] at hx; simp at hx
            | cons y l =>
              rw [hs] at hx f1
              simp only [List.cons_append, List.tail_cons, List.mem_append, List.mem_singleton] at hx f1
              rcases hx with hx | rfl
              · exact f1 x hx
              · rfl
          · rcases List.mem_append.1 hx with hx | hx
            · exact f2 hgr x hx
            · simp only [List.mem_singleton] at hx; subst hx; rfl
        read := fun x => absurd x f.grant
        cause := h.law.cause, origin := h.law.origin }
      shape := h.shape, turns := h.turns, restored := h.restored }
  refine base.view (t := answerHost .OK [] none _) ?_ (fun x => absurd x (none_captures rfl)) (fun x =>
      absurd x (none_captures (answerHost_none_host ..))) (fun x => absurd x f.grant)
  rw [v.same]; exact ⟨rfl, rfl, rfl, rfl, rfl, rfl, rfl, rfl, rfl, rfl⟩

/-- A slot that the lookup finds stands in the index (R9). -/
theorem lookup_mem {line : Line} {k : SlotNo} (h : indexLookup s line = some k) : (line, k) ∈ s.index := by
  unfold indexLookup at h
  obtain ⟨p, hp, rfl⟩ := Option.map_eq_some_iff.1 h
  have h1 := List.find?_some hp
  have h2 := List.mem_of_find?_eq_some hp
  simp only [beq_iff_eq] at h1
  rw [← h1]; exact h2

/-- A line that the lookup does not find has no entry (R9). -/
theorem lookup_none {line : Line} (h : indexLookup s line = none) : ∀ p ∈ s.index, p.1 ≠ line := by
  unfold indexLookup at h
  rw [Option.map_eq_none_iff, List.find?_eq_none] at h
  intro p hp; simpa using h p hp

/-- The guarded-write decision in OPEN (R16, R18, R85). -/
theorem lawful_guard (h : Lawful s) (ho : s.ctl.state = .OPEN) (f : HostFree s) (job : HostJob) (g : RegionNo) (hq : s.queue.length < 8) :
    Lawful (guardHost job g s) := by
  obtain ⟨c0, w0, r0, h0⟩ := open_idle h ho f.captures
  have jo : journalState s ≠ .RECOVERY := by rw [journalState_open ho]; simp
  unfold guardHost guardedWriteDecision
  cases hl : indexLookup s (lineOf job.addr) with
  | some k =>
    dsimp only
    obtain ⟨h1, h2⟩ := h.law.indexed.2 _ (lookup_mem hl)
    refine lawful_post h ho f _ _ _ _ _ hq (fun _ => ⟨k, ?_, h2⟩)
    cases hs : (s.retention.slots.get k).state with
    | FREE => exact absurd hs h1
    | COMPLETE => rfl
    | FILLING => obtain ⟨x, hx, -⟩ := h.law.filling jo k hs; rw [c0] at hx; cases hx
  | none =>
    dsimp only
    split
    · next hc => split at hc <;> cases hc
    · exact lawful_refuseHost _ _ h f
    · next hc =>
      split at hc
      · next hlt =>
        unfold startCapture
        dsimp only
        refine
          { law :=
            { latch := h.law.latch, indexed := h.law.indexed, complete := h.law.complete
              filling := fun _ k hk => ?_
              guarded := h.law.guarded
              work := .capturing _ (.inl ho) rfl r0 h0 rfl
                (.allocating rfl (by show s.writes ++ _ = _; rw [w0]; rfl) ⟨by
                    show ((lowestFree s.retention).getD 0).val = _; rw [lowestFree_dense h.shape hlt]; rfl, fun k hk hx => ?_⟩ rfl ⟨_, rfl,
                    rfl⟩)
              room := ⟨h.law.room.1, fun _ => (by show s.queue.length ≤ 7; omega)⟩
              flight := h.law.flight
              read := fun hr => absurd hr f.grant
              cause := h.law.cause, origin := h.law.origin }
            shape := h.shape, turns := h.turns, restored := h.restored }
        · obtain ⟨x, hx, -⟩ := h.law.filling jo k hk; rw [c0] at hx; cases hx
        · exact lookup_none hl _ (h.law.complete jo k hk) hx
      · cases hc

/-- A verdict that lets a write go is given in OPEN, with room in the queue (R82). -/
theorem verdict_open (job : HostJob) : (∀ r, evaluate s job = .POST r → s.ctl.state = .OPEN ∧ s.queue.length < 8) ∧
    (∀ i, evaluate s job = .GUARD i → s.ctl.state = .OPEN ∧ s.queue.length < 8) := by
  have key : (∃ r, evaluate s job = .POST r) ∨ (∃ i, evaluate s job = .GUARD i) → s.ctl.state = .OPEN ∧ s.queue.length < 8 := by
    intro hx
    have ho : s.ctl.state = .OPEN := by
      by_contra hn
      have k := evaluate_closed hn job
      rcases hx with ⟨r, hx⟩ | ⟨i, hx⟩
      · exact k.1 r hx
      · exact k.2 i hx
    refine ⟨ho, ?_⟩
    by_contra hq
    have hw : isHeldAt s .WRITE = true := by simp [isHeldAt, ho]; omega
    unfold evaluate at hx
    rw [ho] at hx
    dsimp only at hx
    split at hx
    · unfold evaluateLookedUp at hx
      dsimp only at hx
      cases hk : opKind job.op <;> rw [hk] at hx
      · rcases hx with ⟨r, hx⟩ | ⟨i,
            hx⟩ <;> (split at hx <;> first | cases hx | (split at hx <;> first | cases hx | (split at hx <;> cases hx)))
      · rw [hw] at hx
        rcases hx with ⟨r, hx⟩ | ⟨i, hx⟩ <;> (split at hx <;> first | cases hx | (split at hx <;> cases hx))
    · rcases hx with ⟨r, hx⟩ | ⟨i, hx⟩ <;> cases hx
  exact ⟨fun r h => key (.inl ⟨r, h⟩), fun i h => key (.inr ⟨i, h⟩)⟩

/-- `verdict` keeps the law of a running part's journal. -/
theorem lawful_verdict (h : Lawful s) (f : HostFree s) (job : HostJob) (d) : Lawful (applyVerdict job d s (evaluate s job)) := by
  have vo := verdict_open (s := s) job
  cases hv : evaluate s job <;> dsimp only [applyVerdict]
  · exact lawful_refuseHost _ _ h f
  · exact lawful_answerHost _ _ _ h f
  · exact lawful_moveHost _ _ _ h f (by simp)
  · exact lawful_moveHost _ _ _ h f (by split <;> simp)
  · exact lawful_post h (vo.1 _ hv).1 f _ _ _ _ _ (vo.1 _ hv).2 (fun x => by cases x)
  · exact lawful_guard h (vo.2 _ hv).1 f _ _ (vo.2 _ hv).2

/-- `reevaluate` keeps the law of a running part's journal. -/
theorem lawful_reevaluate (h : Lawful s) : Lawful (reevaluate s) := by
  unfold reevaluate
  split
  · exact h
  · next job hh =>
    split
    · next d hs => exact lawful_verdict h (host_free h hh (by rw [hs]; simp) (by rw [hs]; simp)) job d
    · exact h

end Sys2Proof.Machine
end

