-- ==== Sys2Proof/Laws/EpochControl.lean ====
section
/-! SUPPORT. The law of a running part's journal over the epoch controller and the restore engine's choice of a slot. -/

namespace Sys2Proof.Machine

variable {s t u : State}

/-- Drained: the queue is empty and no capture runs (R37). -/
theorem drained_of (h : isDrained s = true) : s.queue = [] ∧ s.capture = none := by unfold isDrained at h; simpa using h

/-- The states of an epoch that is not recovering. -/
def Epochal (st : EpochState) : Prop := st = .OPEN ∨ st = .DRAINING ∨ st = .ROLLBACK

/-- The journal sees the state of an epoch as it is. -/
theorem journalState_epochal (h : Epochal s.ctl.state) : journalState s = s.ctl.state := by
  unfold journalState; rcases h with e | e | e <;> rw [e] <;> rfl

/-- A state of an epoch is no recovery. -/
theorem epochal_ne (h : Epochal s.ctl.state) : journalState s ≠ .RECOVERY := by
  rw [journalState_epochal h]; rcases h with e | e | e <;> rw [e] <;> simp

/-- The controller moves between the states of an epoch. -/
theorem lawful_move (h : Lawful s) (c : Controller) (a : Epochal s.ctl.state) (b : Epochal c.state)
    (w : Work { s with ctl := c }) (hc : c.state = .ROLLBACK → s.retention.header.state ≠ .UNWINDING →
        c.cause.isSome = true) : Lawful { s with ctl := c } where
  law :=
    { latch := h.law.latch, indexed := h.law.indexed
      complete := fun _ => h.law.complete (epochal_ne a)
      filling := fun _ => h.law.filling (epochal_ne a)
      guarded := h.law.guarded, work := w, room := h.law.room, flight := h.law.flight, read := h.law.read
      cause := hc
      origin := fun x => by have x : c.state = .STALLED := x; rcases b with e | e | e <;> rw [e] at x <;> cases x }
  shape := h.shape
  turns := h.turns
  restored := h.restored

/-- In OPEN the journal's work goes on in any state of an epoch. -/
theorem open_work (h : Lawful s) (ho : s.ctl.state = .OPEN) (c : Controller) (b : Epochal c.state) : Work { s with ctl := c } := by
  have st : ∀ x, x ≠ EpochState.OPEN → s.ctl.state = x → False := fun x hx e => hx (e.symm.trans ho)
  cases h.law.work with
  | idle p c w r h => exact .idle b c w r h
  | capturing job p c r h l x =>
    refine .capturing job b c r h l ?_
    cases x with
    | allocating st w n e h => exact .allocating st w n e h
    | waiting st w f e h => exact .waiting st w f e h
    | reading st w g f e h => exact .reading st w g f e h
    | completing st w g f e h => exact .completing st w g f e h
    | failing st w g f e h => exact .failing st w g f e h
    | abandonedEarly _ o => exact (st _ (by simp) o).elim
    | abandoned _ o => exact (st _ (by simp) o).elim
    | released _ o => exact (st _ (by simp) o).elim
  | sealing p => exact (st _ (by simp) p).elim
  | clearing p => rcases p with p | p <;> exact (st _ (by simp) p).elim
  | marking p => rcases p with p | p <;> exact (st _ (by simp) p).elim
  | restoring k q c h p => rcases p with ⟨p | p, -⟩ | ⟨p, -⟩ <;> exact (st _ (by simp) p).elim
  | retiring x q c h p => rcases p with p | p <;> exact (st _ (by simp) p).elim

/-- The controller's other fields change alone. -/
theorem lawful_ctl (h : Lawful s) (c : Controller) (e : c.state = s.ctl.state) (e2 : c.cause = s.ctl.cause) (e3 : c.stallOrigin =
    s.ctl.stallOrigin) : Lawful { s with ctl := c } :=
  h.frame ⟨rfl, rfl, rfl, rfl, rfl, rfl, e, e2, e3, rfl⟩ rfl

/-- A re-evaluation leaves the epoch state alone. -/
theorem reev_state (s : State) : (reevaluate s).ctl.state = s.ctl.state := by rw [reevaluate_ctl]

/-- Entry to ROLLBACK from OPEN. -/
theorem lawful_enterRollback_open (h : Lawful s) (c : RollbackCause) (ho : s.ctl.state = .OPEN) : Lawful (enterRollback c s) :=
  lawful_reevaluate (lawful_move h { s.ctl with cause := some c, autoTimer := none, state := .ROLLBACK } (.inl ho) (.inr (.inr rfl))
    (open_work h ho _ (.inr (.inr rfl))) (fun _ _ => rfl))

/-- Nothing works on the journal, and no unwind stands. -/
structure Quiet (s : State) : Prop where
  queue : s.queue = []
  capture : s.capture = none
  writes : s.writes = []
  restore : s.restore.state = .IDLE
  header : s.retention.header.state = .EMPTY ∨ s.retention.header.state = .OPEN

/-- A drain that has completed leaves nothing at work (R37, R56). -/
theorem quiet_of (h : Lawful s) (p : s.ctl.state = .DRAINING ∨ s.ctl.state = .ROLLBACK) (d : isDrained s = true) (w : s.writes = [])
    (u : s.ctl.state = .ROLLBACK → s.retention.header.state ≠ .UNWINDING) : Quiet s := by
  obtain ⟨q, c⟩ := drained_of d
  cases h.law.work with
  | idle _ _ _ r h => exact ⟨q, c, w, r, h⟩
  | capturing job p c' => rw [c] at c'; cases c'
  | sealing p q c r w' => rw [w] at w'; cases w'
  | clearing p q c r w' => rw [w] at w'; cases w'
  | marking p q c r w' => rw [w] at w'; cases w'
  | restoring k q c h p' =>
    rcases p with p | p
    · rw [p] at p'; simp at p'
    · exact absurd h (u p)
  | retiring x q c h p' =>
    rcases p with p | p
    · rw [p] at p'; simp at p'
    · exact absurd h (u p)

/-- `mark` keeps the law of a running part's journal. -/
theorem lawful_mark (h : Lawful s) (q : Quiet s) (p : s.ctl.state = .ROLLBACK) : Lawful (askWrite .MARK s) :=
  { h with law := { h.law with
      work := .marking (.inl p) q.queue q.capture q.restore (by show s.writes ++ _ = _; rw [q.writes]; rfl) q.header } }

/-- `rollbackDrainCheck` keeps the law of a running part's journal. -/
theorem lawful_rollbackDrainCheck (h : Lawful s) : Lawful (rollbackDrainCheck s) := by
  unfold rollbackDrainCheck; split
  · next hc => exact lawful_mark h (quiet_of h (.inr hc.1) hc.2.1 hc.2.2.2 (fun _ => hc.2.2.1)) hc.1
  · exact h

/-- `commitDrainCheck` keeps the law of a running part's journal. -/
theorem lawful_commitDrainCheck (h : Lawful s) : Lawful (commitDrainCheck s) := by
  unfold commitDrainCheck; split
  · next hc =>
    obtain ⟨h1, h2, h3, h4⟩ := hc
    have q := quiet_of h (.inl h1) h2 h4 (fun x => by rw [h1] at x; cases x)
    unfold faultCheck; split
    · refine lawful_rollbackDrainCheck (lawful_reevaluate (lawful_move h
          { s.ctl with cause := some .FAULT, autoTimer := none, state := .ROLLBACK } (.inr (.inl h1)) (.inr (.inr rfl))
        (.idle (.inr (.inr rfl)) q.capture q.writes q.restore q.header) (fun _ _ => rfl)))
    · exact { h with law := { h.law with
        work := .sealing h1 q.queue q.capture q.restore (by show s.writes ++ _ = _; rw [q.writes]; rfl) q.header } }
  · exact h

/-- `drainCheck` keeps the law of a running part's journal. -/
theorem lawful_drainCheck (h : Lawful s) : Lawful (drainCheck s) := by
  unfold drainCheck; split
  · exact lawful_commitDrainCheck h
  · exact lawful_rollbackDrainCheck h
  · exact h

/-- `takeCommit` keeps the law of a running part's journal. -/
theorem lawful_takeCommit (h : Lawful s) (ho : s.ctl.state = .OPEN) : Lawful (takeCommit s) :=
  lawful_commitDrainCheck (lawful_reevaluate (lawful_move h { s.ctl with autoTimer := none, state := .DRAINING } (.inl ho) (.inr (.inl rfl))
    (open_work h ho _ (.inr (.inl rfl))) (fun x => by cases x)))

/-- `commitRequest` keeps the law of a running part's journal. -/
theorem lawful_commitRequest (h : Lawful s) : Lawful (commitRequest s).1 := by
  unfold commitRequest; split
  · next ho => exact lawful_takeCommit h ho
  · exact lawful_ctl h _ rfl rfl rfl
  · exact lawful_ctl h _ rfl rfl rfl
  · exact h
  · exact h
  · exact h

/-- Entry to OPEN: the journal is EMPTY, and nothing is in flight on it. -/
structure Ready (s : State) : Prop where
  latch : s.retention.latch = true
  index : s.index = []
  queue : s.queue = []
  capture : s.capture = none
  writes : s.writes = []
  restore : s.restore.state = .IDLE
  header : s.retention.header.state = .EMPTY
  shape : JournalShape s.retention
  read : s.arbiter.grant = some .HOST_READ → ∃ req, s.host = some req ∧ req.stage = .AT_MEMORY
  turns : s.arbiter.hostCount ≤ 4
  restored : s.restore.restored ≤ 256

/-- Entry to OPEN from a ready state has the law. -/
theorem Ready.lawful (h : Ready s) (c : Controller) (hc : c.state = .OPEN) : Lawful { s with ctl := c } := by
  have nt : ∀ k, ¬ Taken s.retention k := by
    intro k hk; have := (h.shape.dense k).1 hk; rw [h.shape.empty h.header] at this; omega
  exact
    { law :=
      { latch := h.latch
        indexed := by show s.index.Nodup ∧ ∀ p ∈ s.index, _; rw [h.index]; simp
        complete := fun _ k hk => absurd hk (nt k)
        filling := fun _ k hk => absurd (show Taken s.retention k by
            rw [Taken]; rw [show (s.retention.slots.get k).state = .FILLING from hk]; simp) (nt k)
        guarded := fun e he => by have he : e ∈ s.queue := he; rw [h.queue] at he; cases he
        work := .idle (.inl hc) h.capture h.writes h.restore (.inl h.header)
        room := by show s.queue.length ≤ 8 ∧ (_ → s.queue.length ≤ 7); rw [h.queue]; simp
        flight := by
          refine ⟨?_, fun _ => ?_⟩
          · show ∀ e ∈ s.queue.tail, _; rw [h.queue]; simp
          · show ∀ e ∈ s.queue, _; rw [h.queue]; simp
        read := h.read
        cause := fun x => by have x : c.state = .ROLLBACK := x; rw [hc] at x; cases x
        origin := fun x => by have x : c.state = .STALLED := x; rw [hc] at x; cases x }
      shape := h.shape, turns := h.turns, restored := h.restored }

/-- `enterOpen` keeps the law of a running part's journal. -/
theorem lawful_enterOpen (h : Ready s) : Lawful (enterOpen s) := by
  unfold enterOpen
  have g : Lawful (changeState .OPEN
      { s with ctl := { s.ctl with faulted := false, stallOrigin := none, autoTimer := fullInterval s.cfg.autoInterval } }) :=
    lawful_reevaluate (h.lawful
        { s.ctl with faulted := false, stallOrigin := none, autoTimer := fullInterval s.cfg.autoInterval, state := .OPEN } rfl)
  have ho : (changeState .OPEN
      { s with ctl := { s.ctl with faulted := false, stallOrigin := none, autoTimer := fullInterval s.cfg.autoInterval } }).ctl.state =
      .OPEN := by
    unfold changeState; rw [reevaluate_ctl]
  dsimp only
  split
  · exact lawful_takeCommit (lawful_ctl g _ rfl rfl rfl) ho
  · exact g

/-- What the restore engine's next choice of a slot starts from: an UNWINDING header, everything drained. -/
structure Unwindable (s : State) : Prop where
  latch : s.retention.latch = true
  indexed : s.index.Nodup ∧ ∀ p ∈ s.index, Taken s.retention p.2 ∧ (s.retention.slots.get p.2).line = p.1
  complete : s.ctl.state ≠ .RECOVERY → ∀ k, Taken s.retention k → ((s.retention.slots.get k).line, k) ∈ s.index
  filling : s.ctl.state ≠ .RECOVERY → ∀ k, (s.retention.slots.get k).state ≠ .FILLING
  queue : s.queue = []
  capture : s.capture = none
  state : s.ctl.state = .ROLLBACK ∨ s.ctl.state = .RECOVERY
  header : s.retention.header.state = .UNWINDING
  writes : s.writes = [] ∨ s.writes = [.DISCARD]
  shape : JournalShape s.retention
  read : s.arbiter.grant = some .HOST_READ → ∃ req, s.host = some req ∧ req.stage = .AT_MEMORY
  turns : s.arbiter.hostCount ≤ 4
  restored : s.restore.restored + s.retention.header.count ≤ 256

/-- The engine's next state and the writes it asks for have the law. -/
theorem Unwindable.lawful (h : Unwindable s) (r : RestoreEngine) (ws : List RetentionWrite) (hr : r.restored = s.restore.restored)
    (w : Work { s with restore := r, writes := ws }) : Lawful { s with restore := r, writes := ws } where
  law :=
    have js : journalState { s with restore := r, writes := ws } = s.ctl.state := by
      unfold journalState; rcases h.state with e | e <;> simp [e]
    { latch := h.latch, indexed := h.indexed
      complete := fun x => h.complete (by rw [js] at x; exact x)
      filling := fun x k hk => absurd hk (h.filling (by rw [js] at x; exact x) k)
      guarded := fun e he => by have he : e ∈ s.queue := he; rw [h.queue] at he; cases he
      work := w
      room := by show s.queue.length ≤ 8 ∧ (_ → s.queue.length ≤ 7); rw [h.queue]; simp
      flight := by
        refine ⟨?_, fun _ => ?_⟩
        · show ∀ e ∈ s.queue.tail, _; rw [h.queue]; simp
        · show ∀ e ∈ s.queue, _; rw [h.queue]; simp
      read := h.read
      cause := fun _ x => absurd h.header x
      origin := fun x => by have x : s.ctl.state = .STALLED := x; rcases h.state with e | e <;> rw [e] at x <;> cases x }
  shape := h.shape
  turns := h.turns
  restored := by show r.restored ≤ 256; rw [hr]; have := h.restored; omega

/-- `selectSlot` keeps the law of a running part's journal. -/
theorem lawful_selectSlot (h : Unwindable s) : Lawful (selectSlot s) := by
  have ww : ∀ x, s.writes ++ [x] = [x] ∨ s.writes ++ [x] = [.DISCARD, x] := by
    intro x; rcases h.writes with e | e <;> rw [e] <;> simp
  have rr := h.restored
  unfold selectSlot; split
  · next hn =>
    have h0 : s.retention.header.count = 0 := by
      by_contra hc
      obtain ⟨k, hk, -⟩ := newest_dense h.shape hc
      rw [hn] at hk; cases hk
    exact h.lawful _ _ rfl (.retiring .FINISH h.queue h.capture h.header h.state rfl (.inr ⟨rfl, h0⟩) (ww _))
  · next k hk =>
    have hc : s.retention.header.count ≠ 0 := by intro h0; rw [newest_none h0] at hk; cases hk
    obtain ⟨k', hk', hv⟩ := newest_dense h.shape hc
    rw [hk] at hk'; cases hk'
    split
    · next hs =>
      exact h.lawful _ s.writes rfl (.restoring k h.queue h.capture h.header (.inl ⟨h.state, .inl rfl⟩) h.writes rfl hv hs rr)
    · exact h.lawful _ _ rfl (.retiring .RETIRE h.queue h.capture h.header h.state rfl (.inl ⟨rfl, (by
          show 1 ≤ s.retention.header.count; omega), (by show s.restore.restored + s.retention.header.count ≤ 257; omega)⟩) (ww _))

end Sys2Proof.Machine
end

