-- ==== Sys2Proof/Laws/EpochPort.lean ====
section
/-! SUPPORT. The law of a running part's journal over the arbiter, the memory port and what each grant holder does with a result. -/

namespace Sys2Proof.Machine

variable {s t u : State}

/-- The port is let go where no capture reads through it and the queue holds no entry in flight. -/
theorem lawful_release (h : Lawful s) (c : ∀ job, s.capture = some job → s.arbiter.grant = some .CAPTURE → job.stage ≠ .READING)
    (q : s.arbiter.grant = some .QUEUE_HEAD → s.queue = []) : Lawful (releasePort s) where
  law :=
    { latch := h.law.latch, indexed := h.law.indexed, complete := h.law.complete, filling := h.law.filling, guarded := h.law.guarded
      work := by
        cases h.law.work with
        | idle p c w r h => exact .idle p c w r h
        | capturing job p cc r h l x =>
          refine .capturing job p cc r h l ?_
          cases x with
          | allocating st w n e h => exact .allocating st w n e h
          | waiting st w f e h => exact .waiting st w f e h
          | reading st w g f e h => exact absurd st (c job cc g)
          | completing st w g f e h => exact .completing st w (by simp [releasePort]) f e h
          | failing st w g f e h => exact .failing st w (by simp [releasePort]) f e h
          | abandonedEarly st o w n e h => exact .abandonedEarly st o w n e h
          | abandoned st o w f e h => exact .abandoned st o w f e h
          | released st o w e f => exact .released st o w e f
        | sealing p q c r w h => exact .sealing p q c r w h
        | clearing p q c r w h => exact .clearing p q c r w h
        | marking p q c r w h => exact .marking p q c r w h
        | restoring k q c h p w cur new full n => exact .restoring k q c h p w cur new full n
        | retiring x q c h p r k w => exact .retiring x q c h p r k w
      room := h.law.room
      flight := by
        refine ⟨h.law.flight.1, fun _ e he => ?_⟩
        have he : e ∈ s.queue := he
        by_cases hg : s.arbiter.grant = some .QUEUE_HEAD
        · rw [q hg] at he; cases he
        · exact h.law.flight.2 hg e he
      read := fun x => by simp [releasePort] at x
      cause := h.law.cause, origin := h.law.origin }
  shape := h.shape
  turns := h.turns
  restored := h.restored

/-- `endHazard` keeps the law of a running part's journal. -/
theorem lawful_endHazard (h : Lawful s) : Lawful (endHazard s) := by
  unfold endHazard
  split
  · next job hj =>
    split
    · next hc => exact lawful_moveHost _ _ _ h (host_free h hj (by rw [hc.1]; simp) (by rw [hc.1]; simp)) (by simp)
    · exact h
  · exact h

/-- `hostReadResult` keeps the law of a running part's journal. -/
theorem lawful_hostReadResult (r) (h : Lawful s) (hg : s.arbiter.grant = some .HOST_READ) : Lawful (hostReadResult r s) := by
  have g : Lawful (releasePort s) := lawful_release h (fun _ _ x => by rw [hg] at x; cases x) (fun x => by rw [hg] at x; cases x)
  obtain ⟨req, hr, hs⟩ := h.law.read hg
  have f : HostFree (releasePort s) := ⟨(by rintro ⟨q, e, k⟩; have e : s.host = some q := e; rw [hr] at e; cases e; rw [hs] at k; cases k),
      by simp [releasePort]⟩
  unfold hostReadResult
  dsimp only
  split
  · exact g
  · split
    · exact lawful_answerHost _ _ _ g f
    · exact lawful_recordFault _ _ _ _ (lawful_refuseHost _ _ g f)

/-- A capture record goes while nothing of it stands in the journal. -/
theorem lawful_noCapture (h : Lawful s) (p : Epochal s.ctl.state) (w : s.writes = []) (r : s.restore.state = .IDLE)
    (hh : s.retention.header.state = .EMPTY ∨ s.retention.header.state = .OPEN)
    (f : ∀ k, (s.retention.slots.get k).state ≠ .FILLING) : Lawful { s with capture := none } where
  law :=
    { latch := h.law.latch, indexed := h.law.indexed, complete := h.law.complete
      filling := fun _ k hk => absurd hk (f k)
      guarded := h.law.guarded
      work := .idle p rfl w r hh
      room := h.law.room, flight := h.law.flight, read := h.law.read, cause := h.law.cause, origin := h.law.origin }
  shape := h.shape
  turns := h.turns
  restored := h.restored

/-- No slot is FILLING but the capture's (R8). -/
theorem no_filling (h : Lawful s) {job : CaptureJob} (p : Epochal s.ctl.state) (c : s.capture = some job) (f : (s.retention.slots.get
    job.slot).state ≠ .FILLING) :
    ∀ k, (s.retention.slots.get k).state ≠ .FILLING := by
  intro k hk
  obtain ⟨j, hj, hs⟩ := h.law.filling (epochal_ne p) k hk
  rw [c] at hj; cases hj
  rw [hs] at f; exact f hk

/-- What stands while a capture runs. -/
theorem Work.capture (h : Work s) {job : CaptureJob} (c : s.capture = some job) :
    Epochal s.ctl.state ∧ s.restore.state = .IDLE ∧ (s.retention.header.state = .EMPTY ∨ s.retention.header.state = .OPEN) ∧
        job.line = lineOf job.addr ∧ CapturePhase s job := by
  cases h with
  | idle p c' => rw [c'] at c; cases c
  | capturing job' p c' r h l x => rw [c'] at c; cases c; exact ⟨p, r, h, l, x⟩
  | sealing p q c' => rw [c'] at c; cases c
  | clearing p q c' => rw [c'] at c; cases c
  | marking p q c' => rw [c'] at c; cases c
  | restoring k q c' => rw [c'] at c; cases c
  | retiring x q c' => rw [c'] at c; cases c

/-- A capture's record changes with its slot, beside the writes asked for and the grant. -/
theorem lawful_capture (h : Lawful s) {job : CaptureJob} (c : s.capture = some job) (job' : CaptureJob) (ws : List RetentionWrite) (g :
    Option Holder)
    (e1 : job'.slot = job.slot) (e2 : job'.line = job.line) (e3 : job'.addr = job.addr)
    (hq : s.arbiter.grant ≠ some .QUEUE_HEAD) (hr : g = some .HOST_READ → s.arbiter.grant = some .HOST_READ)
    (x : CapturePhase { s with capture := some job', writes := ws, arbiter := { s.arbiter with grant := g } } job') :
    Lawful { s with capture := some job', writes := ws, arbiter := { s.arbiter with grant := g } } where
  law :=
    have ⟨p, r, hh, l, _⟩ := h.law.work.capture c
    { latch := h.law.latch, indexed := h.law.indexed, complete := h.law.complete
      filling := fun y k hk => by
        obtain ⟨j, hj, hs⟩ := h.law.filling y k hk
        rw [c] at hj; cases hj
        exact ⟨_, rfl, by rw [e1]; exact hs⟩
      guarded := h.law.guarded
      work := .capturing job' p rfl r hh (by rw [e2, e3]; exact l) x
      room := h.law.room
      flight := ⟨h.law.flight.1, fun _ => h.law.flight.2 hq⟩
      read := fun y => h.law.read (hr y)
      cause := h.law.cause, origin := h.law.origin }
  shape := h.shape
  turns := h.turns
  restored := h.restored

/-- `captureResult` keeps the law of a running part's journal. -/
theorem lawful_captureResult (r) (h : Lawful s) (hg : s.arbiter.grant = some .CAPTURE) : Lawful (captureResult r s) := by
  have nq : s.arbiter.grant ≠ some .QUEUE_HEAD := by rw [hg]; simp
  have rel : (∀ job, s.capture = some job → job.stage ≠ .READING) → Lawful (releasePort s) := fun k =>
    lawful_release h (fun job c _ => k job c) (fun x => absurd x nq)
  unfold captureResult
  split
  · next hc => exact rel (fun job c => by rw [hc] at c; cases c)
  · next job hc =>
    obtain ⟨p, rr, hh, l, x⟩ := h.law.work.capture hc
    split
    · next hs =>
      obtain ⟨w, f, e, k⟩ : s.writes = [] ∧ Filled s job ∧ job.words.length < 8 ∧ HostCaptures s := by
        cases x with
        | reading st w g f e h => exact ⟨w, f, e, h⟩
        | completing st w g => exact absurd hg g
        | failing st w g => exact absurd hg g
        | allocating st => rw [hs] at st; cases st
        | waiting st => rw [hs] at st; cases st
        | abandonedEarly st => rw [hs] at st; cases st
        | abandoned st => rw [hs] at st; cases st
        | released st => rw [hs] at st; cases st
      split
      · next data =>
        dsimp only
        split
        · next hl =>
          exact lawful_capture h hc { job with words := job.words ++ [data] } _ none rfl rfl rfl nq (fun y => by cases y)
            (.completing hs (by show s.writes ++ _ = _; rw [w]; rfl) (by simp) f (by simp; omega) k)
        · next hl =>
          exact lawful_capture h hc { job with words := job.words ++ [data] } s.writes s.arbiter.grant rfl rfl rfl nq (fun y => y)
            (.reading hs w hg f (by simp; omega) k)
      · exact lawful_capture h hc { job with failure := some _ } _ none rfl rfl rfl nq (fun y => by cases y)
          (.failing hs (by show s.writes ++ _ = _; rw [w]; rfl) (by simp) f e k)
    · next hs =>
      have g := rel (fun j c => by rw [hc] at c; cases c; rw [hs]; simp)
      unfold abandonedReadEnds
      dsimp only
      split
      · exact g
      · next hw =>
        refine lawful_drainCheck ?_
        have x' := (g.law.work.capture (s := releasePort s) hc)
        cases x with
        | released st o w e f => exact lawful_noCapture g p w rr hh (no_filling g p (s := releasePort s) hc f)
        | abandonedEarly st o w => rw [w] at hw; simp at hw
        | abandoned st o w => rw [w] at hw; simp at hw
        | allocating st => rw [hs] at st; cases st
        | waiting st => rw [hs] at st; cases st
        | reading st => rw [hs] at st; cases st
        | completing st => rw [hs] at st; cases st
        | failing st => rw [hs] at st; cases st
    · next hs => exact rel (fun j c => by rw [hc] at c; cases c; rw [hs]; simp)
    · next hs => exact rel (fun j c => by rw [hc] at c; cases c; rw [hs]; simp)

/-- `headResult` keeps the law of a running part's journal. -/
theorem lawful_headResult (r) (h : Lawful s) (hg : s.arbiter.grant = some .QUEUE_HEAD) : Lawful (headResult r s) := by
  unfold headResult
  split
  · next hq => exact lawful_release h (fun _ _ x => by rw [hg] at x; cases x) (fun _ => hq)
  · next e rest hq =>
    dsimp only
    have g : Lawful (releasePort { s with queue := rest }) :=
      { law :=
        { latch := h.law.latch, indexed := h.law.indexed, complete := h.law.complete, filling := h.law.filling
          guarded := fun x hx => h.law.guarded x (by rw [hq]; exact List.mem_cons_of_mem _ hx)
          work := by
            have ne : s.queue ≠ [] := by rw [hq]; simp
            cases h.law.work with
            | idle p c w r h => exact .idle p c w r h
            | capturing job p cc r h l x =>
              refine .capturing job p cc r h l ?_
              cases x with
              | allocating st w n e h => exact .allocating st w n e h
              | waiting st w f e h => exact .waiting st w f e h
              | reading st w g f e h => rw [hg] at g; cases g
              | completing st w g f e h => exact .completing st w (by simp [releasePort]) f e h
              | failing st w g f e h => exact .failing st w (by simp [releasePort]) f e h
              | abandonedEarly st o w n e h => exact .abandonedEarly st o w n e h
              | abandoned st o w f e h => exact .abandoned st o w f e h
              | released st o w e f => exact .released st o w e f
            | sealing p q => exact absurd q ne
            | clearing p q => exact absurd q ne
            | marking p q => exact absurd q ne
            | restoring k q => exact absurd q ne
            | retiring x q => exact absurd q ne
          room := by
            have := h.law.room; rw [hq] at this; simp only [List.length_cons] at this
            exact ⟨by show rest.length ≤ 8; omega, fun k => by show rest.length ≤ 7; have := this.2 k; omega⟩
          flight := by
            have := h.law.flight.1; rw [hq] at this
            have this : ∀ e ∈ rest, e.inFlight = false := this
            exact ⟨fun x hx => this x (List.mem_of_mem_tail hx), fun _ => this⟩
          read := fun x => by simp [releasePort] at x
          cause := h.law.cause, origin := h.law.origin }
        shape := h.shape, turns := h.turns, restored := h.restored }
    have key : ∀ v : State, Lawful v → Lawful (drainCheck (endHazard (reevaluate v))) :=
      fun v hv => lawful_drainCheck (lawful_endHazard (lawful_reevaluate hv))
    cases r with
    | OK d => exact key _ g
    | FAILED c =>
      refine key (failedPost c e _) ?_
      unfold failedPost; dsimp only; split
      · exact lawful_ctl (lawful_recordFault _ _ _ _ g) _ rfl rfl rfl
      · exact lawful_recordFault _ _ _ _ g

/-- What stands while the restore engine waits or writes (R58, R59). -/
theorem restoring_of (h : Lawful s) (hw : s.restore.state = .WRITING ∨ s.restore.state = .WAITING) : ∃ k, s.queue = [] ∧ s.capture = none ∧
    s.retention.header.state = .UNWINDING ∧
    (s.ctl.state = .ROLLBACK ∨ s.ctl.state = .RECOVERY) ∧ (s.writes = [] ∨ s.writes = [.DISCARD]) ∧ s.restore.slot = some k ∧
    k.val + 1 = s.retention.header.count ∧ (s.retention.slots.get k).state = .COMPLETE ∧
        s.restore.restored + s.retention.header.count ≤ 256 := by
  have bad : ∀ x, s.restore.state = x → x ≠ .WRITING → x ≠ .WAITING → False := by
    intro x e h1 h2; rcases hw with hw | hw <;> rw [hw] at e
    · exact h1 e.symm
    · exact h2 e.symm
  cases h.law.work with
  | idle p c w r => exact (bad _ r (by simp) (by simp)).elim
  | capturing job p c r => exact (bad _ r (by simp) (by simp)).elim
  | sealing p q c r => exact (bad _ r (by simp) (by simp)).elim
  | clearing p q c r => exact (bad _ r (by simp) (by simp)).elim
  | marking p q c r => exact (bad _ r (by simp) (by simp)).elim
  | restoring k q c h p w cur new full n =>
    rcases p with ⟨p, -⟩ | ⟨-, p⟩
    · exact ⟨k, q, c, h, p, w, cur, new, full, n⟩
    · exact (bad _ p (by simp) (by simp)).elim
  | retiring x q c h p r => exact (bad _ r (by simp) (by simp)).elim

/-- The law of an unwind under way, with another work, controller state, grant. -/
theorem lawful_unwind (h : Lawful s) (q : s.queue = []) (hh : s.retention.header.state = .UNWINDING) (c : Controller) (r : RestoreEngine)
    (ws : List RetentionWrite) (a : Arbiter)
    (js : (if c.state = .STALLED then stateOfOrigin c.stallOrigin else c.state) = journalState s) (hr : r.restored ≤ 256) (hc : a.hostCount
        ≤ 4)
    (ho : c.state = .STALLED → c.stallOrigin.isSome = true)
    (rd : a.grant = some .HOST_READ → ∃ req, s.host = some req ∧ req.stage = .AT_MEMORY)
    (w : Work { s with ctl := c, restore := r, writes := ws, arbiter := a }) : Lawful
        { s with ctl := c, restore := r, writes := ws, arbiter := a } where
  law :=
    { latch := h.law.latch, indexed := h.law.indexed
      complete := fun x => h.law.complete (by rw [← js]; exact x)
      filling := fun x => h.law.filling (by rw [← js]; exact x)
      guarded := h.law.guarded
      work := w
      room := h.law.room
      flight := by
        refine ⟨?_, fun _ => ?_⟩
        · show ∀ e ∈ s.queue.tail, _; rw [q]; simp
        · show ∀ e ∈ s.queue, _; rw [q]; simp
      read := rd
      cause := fun _ x => absurd hh x
      origin := ho }
  shape := h.shape
  turns := hc
  restored := hr

/-- `enterStalled` keeps the law of a running part's journal. -/
theorem lawful_enterStalled (cause) (h : Lawful s) (hw : s.restore.state = .WRITING) : Lawful (enterStalled cause s) := by
  obtain ⟨k, q, c, hh, p, w, cur, new, full, n⟩ := restoring_of h (.inl hw)
  unfold enterStalled
  dsimp only
  refine lawful_reevaluate ?_
  have g := lawful_recordFault .RESTORE_WRITE cause (cursorAddr s) (openEpoch s.retention) h
  have e := recordFault_eq .RESTORE_WRITE cause (cursorAddr s) (openEpoch s.retention) s
  generalize hu : recordFault .RESTORE_WRITE cause (cursorAddr s) (openEpoch s.retention) s = u at g e
  have js : (if (EpochState.STALLED : EpochState) = .STALLED then stateOfOrigin (some (stallOriginOf u.ctl.state)) else .STALLED) =
      journalState u := by
    have : u.ctl = s.ctl := by rw [e]
    rw [this]; unfold journalState; rw [this]
    rcases p with p | p <;> rw [p] <;> rfl
  have p' : u.queue = [] := by rw [e]; exact q
  have h' : u.retention = s.retention := by rw [e]
  have r' : u.restore = s.restore := by rw [e]
  have w' : u.writes = s.writes := by rw [e]
  have c' : u.capture = s.capture := by rw [e]
  have := lawful_unwind g p' (by rw [h']; exact hh)
    { u.ctl with stallOrigin := some (stallOriginOf u.ctl.state), state := .STALLED } { u.restore with state := .HALTED } u.writes
        { u.arbiter with grant := none }
    js (by show u.restore.restored ≤ 256; exact g.restored) g.turns (fun _ => rfl) (fun x => by cases x)
    (.restoring k p' (by show u.capture = none; rw [c']; exact c) (by show u.retention.header.state = _; rw [h']; exact hh) (.inr ⟨rfl,
        rfl⟩)
      (by show u.writes = [] ∨ u.writes = _; rw [w']; exact w) (by show u.restore.slot = _; rw [r']; exact cur) (by
          show _ = u.retention.header.count; rw [h']; exact new)
      (by show (u.retention.slots.get k).state = _; rw [h']; exact full) (by
          show u.restore.restored + u.retention.header.count ≤ 256; rw [h', r']; exact n))
  exact lawful_setEvent .STALL this

/-- `restoreResult` keeps the law of a running part's journal. -/
theorem lawful_restoreResult (r) (h : Lawful s) (hg : s.arbiter.grant = some .RESTORE) : Lawful (restoreResult r s) := by
  unfold restoreResult
  split
  · exact lawful_release h (fun _ _ x => by rw [hg] at x; cases x) (fun x => by rw [hg] at x; cases x)
  · next hw =>
    have hw : s.restore.state = .WRITING := not_not.1 hw
    obtain ⟨k, q, c, hh, p, w, cur, new, full, n⟩ := restoring_of h (.inl hw)
    have js : (if s.ctl.state = .STALLED then stateOfOrigin s.ctl.stallOrigin else s.ctl.state) = journalState s := rfl
    have no : s.ctl.state = .STALLED → s.ctl.stallOrigin.isSome = true := fun x => by rcases p with p | p <;> rw [p] at x <;> cases x
    have stay : ∀ rr : RestoreEngine, rr.state = .WRITING → rr.slot = s.restore.slot → rr.restored = s.restore.restored →
        Lawful { s with restore := rr } := by
      intro rr h1 h2 h3
      refine lawful_unwind h q hh s.ctl rr s.writes s.arbiter js (by rw [h3]; exact h.restored) h.turns no h.law.read ?_
      exact .restoring k q c hh (.inl ⟨p, .inr h1⟩) w (h2.trans cur) new full (by show rr.restored + _ ≤ _; rw [h3]; exact n)
    split
    · split
      · refine lawful_unwind h q hh s.ctl
            { s.restore with state := .RETIRING, word := 0, attempt := 1, restored := s.restore.restored + 1 } (s.writes ++ [.RETIRE])
            { s.arbiter with grant := none } js
          (by show s.restore.restored + 1 ≤ 256; omega) h.turns no (fun x => by cases x) ?_
        refine .retiring .RETIRE q c hh p rfl (.inl ⟨rfl, (by show 1 ≤ s.retention.header.count; omega), (by
            show s.restore.restored + 1 + s.retention.header.count ≤ 257; omega)⟩) ?_
        show s.writes ++ _ = _ ∨ s.writes ++ _ = _
        rcases w with e | e <;> rw [e] <;> simp
      · exact stay { s.restore with word := s.restore.word + 1, attempt := 1 } hw rfl rfl
    · split
      · exact stay { s.restore with attempt := s.restore.attempt + 1 } hw rfl rfl
      · exact lawful_enterStalled _ h hw

/-- `holderResult` keeps the law of a running part's journal. -/
theorem lawful_holderResult (x : Holder) (r) (h : Lawful s) (hg : s.arbiter.grant = some x) : Lawful (holderResult x r s) := by
  cases x
  · exact lawful_hostReadResult r h hg
  · exact lawful_captureResult r h hg
  · exact lawful_headResult r h hg
  · exact lawful_restoreResult r h hg

/-- The requester that the arbiter chooses waits (R97). -/
theorem chosen_waits {x : Holder} (hc : chooseHolder s = some x) :
    (x = .QUEUE_HEAD → headWaits s = true) ∧ (x = .CAPTURE → captureWaits s = true) ∧ (x = .HOST_READ → hostReadWaits s = true) ∧
        (x = .RESTORE → s.restore.state = .WAITING) ∧
      (x = .CAPTURE ∨ x = .HOST_READ → ¬ (s.arbiter.hostCount = 4 ∧ headWaits s = true)) := by
  unfold chooseHolder at hc
  split at hc
  · next h1 => cases hc; simp [h1]
  · next h1 =>
    split at hc
    · next h2 => cases hc; simpa [h2] using h1
    · split at hc
      · next h3 => cases hc; simpa [h3] using h1
      · split at hc
        · next h4 => cases hc; simp [h4]
        · split at hc
          · next h5 => cases hc; simp [h5]
          · cases hc

/-- `grantPort` keeps the law of a running part's journal. -/
theorem lawful_grantPort (x : Holder) (h : Lawful s) (hn : s.arbiter.grant = none) (hc : chooseHolder s = some x) : Lawful (grantPort x s)
    := by
  obtain ⟨c1, c2, c3, c4, c5⟩ := chosen_waits hc
  have fl := h.law.flight.2 (by rw [hn]; simp)
  have tn : countAfterGrant s x ≤ 4 := by
    have ht := h.turns
    have key : x = .CAPTURE ∨ x = .HOST_READ → (if s.queue.isEmpty then 0 else s.arbiter.hostCount + 1) ≤ 4 := by
      intro hx
      split
      · omega
      · next hq =>
        have hw : headWaits s = true := by
          cases hs : s.queue with
          | nil => rw [hs] at hq; simp at hq
          | cons e l => simp [headWaits, hs, fl e (by rw [hs]; simp)]
        have := c5 hx
        rw [hw] at this; simp at this; omega
    cases x
    · exact key (.inr rfl)
    · exact key (.inl rfl)
    · exact Nat.zero_le _
    · exact Nat.zero_le _
  cases x
  · -- HOST_READ
    have hw := c3 rfl
    obtain ⟨req, hr, hs⟩ : ∃ req, s.host = some req ∧ req.stage = .PORT_WAIT := by
      unfold hostReadWaits at hw
      cases hh : s.host with
      | none => rw [hh] at hw; simp at hw
      | some r => rw [hh] at hw; exact ⟨r, rfl, by simpa using hw⟩
    have nc : ¬ HostCaptures s := by rintro ⟨r, e, k⟩; rw [hr] at e; cases e; rw [hs] at k; cases k
    have e : grantPort .HOST_READ s =
        { s with host := some { req with stage := .AT_MEMORY }, arbiter := { grant := some .HOST_READ, hostCount := countAfterGrant s .HOST_READ } } := by
      simp only [grantPort, startHolder, hr, Option.map]
    rw [e]
    exact
      { law :=
        { latch := h.law.latch, indexed := h.law.indexed, complete := h.law.complete, filling := h.law.filling, guarded := h.law.guarded
          work := by
            cases h.law.work with
            | idle p c w r h => exact .idle p c w r h
            | capturing job p cc r h l x =>
              refine .capturing job p cc r h l ?_
              cases x with
              | allocating st w n e h => exact absurd h nc
              | waiting st w f e h => exact absurd h nc
              | reading st w g f e h => exact absurd h nc
              | completing st w g f e h => exact absurd h nc
              | failing st w g f e h => exact absurd h nc
              | abandonedEarly st o w n e h => exact absurd h nc
              | abandoned st o w f e h => exact absurd h nc
              | released st o w e f => exact .released st o w e f
            | sealing p q c r w h => exact .sealing p q c r w h
            | clearing p q c r w h => exact .clearing p q c r w h
            | marking p q c r w h => exact .marking p q c r w h
            | restoring k q c h p w cur new full n => exact .restoring k q c h p w cur new full n
            | retiring x q c h p r k w => exact .retiring x q c h p r k w
          room := ⟨h.law.room.1, by rintro ⟨r, e, k⟩; cases e; cases k⟩
          flight := ⟨h.law.flight.1, fun _ => fl⟩
          read := fun _ => ⟨_, rfl, rfl⟩
          cause := h.law.cause, origin := h.law.origin }
        shape := h.shape, turns := tn, restored := h.restored }
  · -- CAPTURE
    have hw := c2 rfl
    obtain ⟨job, hj, hs⟩ : ∃ job, s.capture = some job ∧ job.stage = .WAITING := by
      unfold captureWaits at hw
      cases hh : s.capture with
      | none => rw [hh] at hw; simp at hw
      | some r => rw [hh] at hw; exact ⟨r, rfl, by simpa using hw⟩
    obtain ⟨p, rr, hh, l, x⟩ := h.law.work.capture hj
    obtain ⟨w, f, e, k⟩ : s.writes = [] ∧ Filled s job ∧ job.words = [] ∧ HostCaptures s := by
      cases x with
      | waiting st w f e h => exact ⟨w, f, e, h⟩
      | reading st => rw [hs] at st; cases st
      | completing st => rw [hs] at st; cases st
      | failing st => rw [hs] at st; cases st
      | allocating st => rw [hs] at st; cases st
      | abandonedEarly st => rw [hs] at st; cases st
      | abandoned st => rw [hs] at st; cases st
      | released st => rw [hs] at st; cases st
    have g := lawful_capture h hj { job with stage := .READING } s.writes (some .CAPTURE) rfl rfl rfl (by rw [hn]; simp) (fun y => by
        cases y)
      (.reading rfl w rfl f (by show job.words.length < 8; rw [e]; decide) k)
    have e : grantPort .CAPTURE s =
        { { s with capture := some { job with stage := .READING }, writes := s.writes, arbiter := { s.arbiter with grant := some .CAPTURE } } with
        arbiter := { grant := some .CAPTURE, hostCount := countAfterGrant s .CAPTURE } } := by
      simp only [grantPort, startHolder, hj, Option.map]
    rw [e]
    refine { law := { g.law with work := ?_, flight := g.law.flight, read := fun x => by cases x }, shape := g.shape, turns := tn, restored := g.restored }
    exact .capturing _ p rfl rr hh l (.reading rfl w rfl f (by show job.words.length < 8; rw [‹job.words = []›]; decide) k)
  · -- QUEUE_HEAD
    have hw := c1 rfl
    obtain ⟨e, rest, hq⟩ : ∃ e rest, s.queue = e :: rest := by
      cases hs : s.queue with
      | nil => rw [headWaits, hs] at hw; simp at hw
      | cons e l => exact ⟨e, l, rfl⟩
    have e' : grantPort .QUEUE_HEAD s =
        { s with queue := { e with inFlight := true } :: rest, arbiter := { grant := some .QUEUE_HEAD, hostCount := countAfterGrant s .QUEUE_HEAD } } := by
      simp only [grantPort, startHolder, hq]
    have ne : s.queue ≠ [] := by rw [hq]; simp
    have gl : ({ e with inFlight := true } :: rest).length = s.queue.length := by rw [hq]; simp
    rw [e']
    exact
      { law :=
        { latch := h.law.latch, indexed := h.law.indexed, complete := h.law.complete, filling := h.law.filling
          guarded := fun x hx hcl => by
            rcases List.mem_cons.1 hx with rfl | hx
            · exact h.law.guarded e (by rw [hq]; simp) hcl
            · exact h.law.guarded x (by rw [hq]; exact List.mem_cons_of_mem _ hx) hcl
          work := by
            cases h.law.work with
            | idle p c w r h => exact .idle p c w r h
            | capturing job p cc r h l x =>
              refine .capturing job p cc r h l ?_
              cases x with
              | allocating st w n e h => exact .allocating st w n e h
              | waiting st w f e h => exact .waiting st w f e h
              | reading st w g f e h => rw [hn] at g; cases g
              | completing st w g f e h => exact .completing st w (by simp) f e h
              | failing st w g f e h => exact .failing st w (by simp) f e h
              | abandonedEarly st o w n e h => exact .abandonedEarly st o w n e h
              | abandoned st o w f e h => exact .abandoned st o w f e h
              | released st o w e f => exact .released st o w e f
            | sealing p q => exact absurd q ne
            | clearing p q => exact absurd q ne
            | marking p q => exact absurd q ne
            | restoring k q => exact absurd q ne
            | retiring x q => exact absurd q ne
          room := by show _ ≤ 8 ∧ (_ → _ ≤ 7); rw [gl]; exact h.law.room
          flight := ⟨fun x hx => fl x (by rw [hq]; exact List.mem_cons_of_mem _ hx), fun x => absurd rfl x⟩
          read := fun x => by cases x
          cause := h.law.cause, origin := h.law.origin }
        shape := h.shape, turns := tn, restored := h.restored }
  · -- RESTORE
    have hw := c4 rfl
    obtain ⟨k, q, c, hh, p, w, cur, new, full, n⟩ := restoring_of h (.inr hw)
    exact lawful_unwind h q hh s.ctl { s.restore with state := .WRITING } s.writes { grant := some .RESTORE, hostCount := 0 } rfl
        h.restored (by decide)
      h.law.origin (fun x => by cases x) (.restoring k q c hh (.inl ⟨p, .inr rfl⟩) w cur new full n)

/-- `servePort` keeps the law of a running part's journal. -/
theorem lawful_servePort (n : Nat) : ∀ s, Lawful s → Lawful (servePort n s) := by
  induction n with
  | zero => intro s h; exact h
  | succ n ih =>
    intro s h
    unfold servePort
    split
    · exact h
    · split
      · next hn =>
        split
        · exact h
        · next x hc => exact ih _ (lawful_grantPort x h hn hc)
      · next x hg =>
        split
        · next ha =>
          refine ih _ (lawful_release h (fun job hc hx => ?_) (fun hx => ?_))
          · rw [hg] at hx; cases hx
            simp [holderAccess, hc] at ha
          · rw [hg] at hx; cases hx
            cases hq : s.queue with
            | nil => rfl
            | cons e l => simp [holderAccess, hq] at ha
        · split
          · next v hv =>
            obtain ⟨tag, -, rfl⟩ := Option.map_eq_some_iff.1 hv
            exact h.frame ⟨rfl, rfl, rfl, rfl, rfl, rfl, rfl, rfl, rfl, rfl⟩ rfl
          · exact ih _ (lawful_holderResult x _ h hg)

/-- `arbitrate` keeps the law of a running part's journal. -/
theorem lawful_arbitrate (h : Lawful s) : Lawful (arbitrate s) := by
  unfold arbitrate; split
  · exact lawful_servePort _ _ h
  · exact h

/-- `endAccess` keeps the law of a running part's journal. -/
theorem lawful_endAccess (r) (h : Lawful s) : Lawful (endAccess r s) := by
  unfold endAccess
  have g : Lawful { s with port := { s.port with inFlight := none, timer := 0 } } := h.frame ⟨rfl, rfl, rfl, rfl, rfl, rfl, rfl, rfl, rfl,
      rfl⟩ rfl
  dsimp only
  split
  · exact g
  · next x hg => exact lawful_holderResult x _ g hg

/-- `takeResponse` keeps the law of a running part's journal. -/
theorem lawful_takeResponse (a b) (h : Lawful s) : Lawful (takeResponse a b s) := by
  unfold takeResponse; dsimp only; split
  · exact lawful_arbitrate (lawful_endAccess _ h)
  · exact h.frame ⟨rfl, rfl, rfl, rfl, rfl, rfl, rfl, rfl, rfl, rfl⟩ rfl

/-- `takeResponseLimit` keeps the law of a running part's journal. -/
theorem lawful_takeResponseLimit (h : Lawful s) : Lawful (takeResponseLimit s) := by
  unfold takeResponseLimit; split
  · exact h
  split
  · exact h
  · exact lawful_arbitrate (lawful_endAccess _ (h.frame ⟨rfl, rfl, rfl, rfl, rfl, rfl, rfl, rfl, rfl, rfl⟩ rfl))

end Sys2Proof.Machine
end

