-- ==== Sys2Proof/Laws/LinkFree.lean ====
section
/-! SUPPORT. No block but the link reads the link's frame: every operation does the same whatever the frame in progress is. -/

namespace Sys2Proof.Machine

/-- The state with this frame in progress. -/
def withLink (l : Link) (s : State) : State := { s with link := l }

variable (l : Link) (s : State)

theorem setEvent_withLink (e) : setEvent e (withLink l s) = withLink l (setEvent e s) := rfl

theorem withEvents_withLink (a b) : withEvents a b (withLink l s) = withLink l (withEvents a b s) := rfl

theorem askWrite_withLink (e) : askWrite e (withLink l s) = withLink l (askWrite e s) := rfl

theorem releasePort_withLink : releasePort (withLink l s) = withLink l (releasePort s) := rfl

theorem isRunning_withLink : isRunning (withLink l s) = isRunning s := rfl

theorem answerHost_withLink (a b c) : answerHost a b c (withLink l s) = withLink l (answerHost a b c s) := by
  unfold answerHost
  rw [show (withLink l s).host = s.host from rfl]
  cases s.host <;> rfl

theorem logRefusal_withLink (a b c d e) : logRefusal a b c d e (withLink l s) = withLink l (logRefusal a b c d e s) := by
  unfold logRefusal
  show (if s.report.log.length < 16 then _ else _) = _
  by_cases h : s.report.log.length < 16 <;> simp only [h] <;> rfl

theorem reasonEvent_withLink (a) : reasonEvent a (withLink l s) = withLink l (reasonEvent a s) := by
  cases a <;> rfl

theorem refuseHost_withLink (a b) : refuseHost a b (withLink l s) = withLink l (refuseHost a b s) := by
  unfold refuseHost
  rw [show (withLink l s).host = s.host from rfl]
  cases s.host <;> simp only [answerHost_withLink, logRefusal_withLink, reasonEvent_withLink]

theorem recordFault_withLink (a b c d) : recordFault a b c d (withLink l s) = withLink l (recordFault a b c d s) := by
  unfold recordFault
  rw [show (withLink l s).report.fault = s.report.fault from rfl]
  cases s.report.fault <;> rfl

theorem meterCount_withLink (a b) : meterCount a b (withLink l s) = withLink l (meterCount a b s) := by
  unfold meterCount
  cases a
  · rfl
  · next i =>
      dsimp only
      show (if isMetered (s.active.get i) then _ else _) = _
      split <;> rfl

theorem postWrite_withLink (a b c d e) : postWrite a b c d e (withLink l s) = withLink l (postWrite a b c d e s) := by
  unfold postWrite
  dsimp only
  exact (congrArg (meterCount e b) (answerHost_withLink l { s with queue := s.queue ++ [_] } ..)).trans (meterCount_withLink ..)

theorem moveHost_withLink (a b c) : moveHost a b c (withLink l s) = withLink l (moveHost a b c s) := rfl

theorem startCapture_withLink (a b) : startCapture a b (withLink l s) = withLink l (startCapture a b s) := rfl

theorem guardHost_withLink (a b) : guardHost a b (withLink l s) = withLink l (guardHost a b s) := by
  unfold guardHost
  rw [show guardedWriteDecision (withLink l s) (lineOf a.addr) = guardedWriteDecision s (lineOf a.addr) from rfl]
  cases guardedWriteDecision s (lineOf a.addr) <;> simp only [postWrite_withLink, refuseHost_withLink, startCapture_withLink]

theorem applyVerdict_withLink (a b v) : applyVerdict a b (withLink l s) v = withLink l (applyVerdict a b s v) := by
  cases v <;> simp only [applyVerdict, refuseHost_withLink, answerHost_withLink, moveHost_withLink, postWrite_withLink,
    guardHost_withLink] <;> rfl

theorem reevaluate_withLink : reevaluate (withLink l s) = withLink l (reevaluate s) := by
  unfold reevaluate
  rw [show (withLink l s).host = s.host from rfl]
  cases h : s.host with
  | none => rfl
  | some j =>
    dsimp only
    split
    · rename_i hs
      exact applyVerdict_withLink ..
    · rfl

theorem changeState_withLink (a) : changeState a (withLink l s) = withLink l (changeState a s) :=
  reevaluate_withLink l { s with ctl := { s.ctl with state := a } }

theorem enterRollback_withLink (a) : enterRollback a (withLink l s) = withLink l (enterRollback a s) :=
  changeState_withLink l { s with ctl := { s.ctl with cause := some a, autoTimer := none } } _

theorem rollbackDrainCheck_withLink : rollbackDrainCheck (withLink l s) = withLink l (rollbackDrainCheck s) := by
  unfold rollbackDrainCheck
  show (if s.ctl.state = .ROLLBACK ∧ isDrained s = true ∧ s.retention.header.state ≠ .UNWINDING ∧ s.writes = [] then _ else _) = _
  split <;> rfl

theorem faultCheck_withLink : faultCheck (withLink l s) = withLink l (faultCheck s) := by
  unfold faultCheck
  show (if s.ctl.faulted then _ else _) = _
  split
  · rw [enterRollback_withLink, rollbackDrainCheck_withLink]
  · rfl

theorem commitDrainCheck_withLink : commitDrainCheck (withLink l s) = withLink l (commitDrainCheck s) := by
  unfold commitDrainCheck
  show (if s.ctl.state = .DRAINING ∧ isDrained s = true ∧ s.retention.header.state ≠ .SEALED ∧ s.writes = [] then _ else _) = _
  split
  · rw [faultCheck_withLink]
  · rfl

theorem drainCheck_withLink : drainCheck (withLink l s) = withLink l (drainCheck s) := by
  unfold drainCheck
  rw [show (withLink l s).ctl.state = s.ctl.state from rfl]
  cases s.ctl.state <;> simp only [commitDrainCheck_withLink, rollbackDrainCheck_withLink]

theorem takeCommit_withLink : takeCommit (withLink l s) = withLink l (takeCommit s) := by
  unfold takeCommit
  exact (congrArg commitDrainCheck (changeState_withLink l { s with ctl := { s.ctl with autoTimer := none } } _)).trans
    (commitDrainCheck_withLink ..)

theorem commitRequest_withLink : commitRequest (withLink l s) = (withLink l (commitRequest s).1, (commitRequest s).2) := by
  unfold commitRequest
  rw [show (withLink l s).ctl.state = s.ctl.state from rfl]
  cases s.ctl.state <;> first | rfl | simp only [takeCommit_withLink]

theorem abandonCapture_withLink : abandonCapture (withLink l s) = withLink l (abandonCapture s) := by
  unfold abandonCapture
  rw [show (withLink l s).capture = s.capture from rfl]
  cases s.capture with
  | none => rfl
  | some j =>
    dsimp only
    cases j.stage <;> first | rfl | (dsimp only; show (if s.arbiter.grant = some .CAPTURE then _ else _) = _; split <;> rfl)

theorem selectSlot_withLink : selectSlot (withLink l s) = withLink l (selectSlot s) := by
  unfold selectSlot
  rw [show newestSlot (withLink l s).retention = newestSlot s.retention from rfl]
  cases newestSlot s.retention with
  | none => rfl
  | some j =>
    dsimp only
    show (if (s.retention.slots.get j).state = .COMPLETE then _ else _) = _
    split <;> rfl

theorem grantPort_withLink (h) : grantPort h (withLink l s) = withLink l (grantPort h s) := by
  unfold grantPort
  cases h <;> try rfl
  unfold startHolder
  dsimp only
  rw [show (withLink l s).queue = s.queue from rfl]
  cases s.queue <;> rfl

theorem holderAccess_withLink (h) : holderAccess h (withLink l s) = holderAccess h s := by
  cases h <;> rfl

theorem issueAccess_withLink (a) : issueAccess a (withLink l s) = (issueAccess a s).map (withLink l) := by
  unfold issueAccess
  rw [Option.map_map]
  rfl

theorem endHazard_withLink : endHazard (withLink l s) = withLink l (endHazard s) := by
  unfold endHazard
  rw [show (withLink l s).host = s.host from rfl]
  cases s.host with
  | none => rfl
  | some j =>
    dsimp only
    show (if j.stage = .HAZARD ∧ lineQueued s (lineOf j.addr) = false then _ else _) = _
    split <;> rfl

theorem failedPost_withLink (c e) : failedPost c e (withLink l s) = withLink l (failedPost c e s) := by
  unfold failedPost
  dsimp only
  rw [recordFault_withLink]
  split <;> rfl

theorem headResult_withLink (r) : headResult r (withLink l s) = withLink l (headResult r s) := by
  unfold headResult
  rw [show (withLink l s).queue = s.queue from rfl]
  cases s.queue with
  | nil => rfl
  | cons e q =>
    cases r
    · dsimp only
      rw [show releasePort { withLink l s with queue := q } = withLink l (releasePort { s with queue := q }) from rfl,
        reevaluate_withLink, endHazard_withLink, drainCheck_withLink]
    · dsimp only
      rw [show releasePort { withLink l s with queue := q } = withLink l (releasePort { s with queue := q }) from rfl,
        failedPost_withLink, reevaluate_withLink, endHazard_withLink, drainCheck_withLink]

theorem hostReadResult_withLink (r) : hostReadResult r (withLink l s) = withLink l (hostReadResult r s) := by
  unfold hostReadResult
  dsimp only
  rw [releasePort_withLink, show (withLink l (releasePort s)).host = (releasePort s).host from rfl]
  cases (releasePort s).host with
  | none => rfl
  | some j =>
    cases r
    · exact answerHost_withLink ..
    · dsimp only
      rw [refuseHost_withLink, recordFault_withLink]
      rfl

theorem abandonedReadEnds_withLink : abandonedReadEnds (withLink l s) = withLink l (abandonedReadEnds s) := by
  unfold abandonedReadEnds
  dsimp only
  show (if s.writes.contains .RELEASE then _ else _) = _
  split
  · rfl
  · exact drainCheck_withLink l { releasePort s with capture := none }

theorem captureResult_withLink (r) : captureResult r (withLink l s) = withLink l (captureResult r s) := by
  unfold captureResult
  rw [show (withLink l s).capture = s.capture from rfl]
  cases s.capture with
  | none => rfl
  | some j =>
    dsimp only
    cases j.stage <;> cases r <;> first | rfl | (simp only [abandonedReadEnds_withLink]; done) | (dsimp only; split <;> rfl)

theorem enterStalled_withLink (c) : enterStalled c (withLink l s) = withLink l (enterStalled c s) := by
  unfold enterStalled
  dsimp only
  rw [show cursorAddr (withLink l s) = cursorAddr s from rfl,
    show openEpoch (withLink l s).retention = openEpoch s.retention from rfl, recordFault_withLink]
  generalize recordFault _ _ _ _ s = u
  exact changeState_withLink l (setEvent .STALL (releasePort
    { u with restore := { u.restore with state := .HALTED }, ctl := { u.ctl with stallOrigin := some (stallOriginOf u.ctl.state) } })) _

theorem restoreResult_withLink (r) : restoreResult r (withLink l s) = withLink l (restoreResult r s) := by
  unfold restoreResult
  show (if s.restore.state ≠ .WRITING then _ else _) = _
  split
  · rfl
  · cases r
    · dsimp only
      show (if s.restore.word = 7 then _ else _) = _
      split <;> rfl
    · dsimp only
      show (if s.restore.attempt < 3 then _ else _) = _
      split
      · rfl
      · exact enterStalled_withLink ..

theorem holderResult_withLink (h r) : holderResult h r (withLink l s) = withLink l (holderResult h r s) := by
  cases h <;> simp only [holderResult, hostReadResult_withLink, captureResult_withLink, headResult_withLink, restoreResult_withLink]

theorem servePort_withLink (n) : ∀ s, servePort n (withLink l s) = withLink l (servePort n s) := by
  induction n with
  | zero =>
    intro s
    rfl
  | succ n ih =>
    intro s
    unfold servePort
    rw [show (withLink l s).port = s.port from rfl, show (withLink l s).arbiter = s.arbiter from rfl]
    split
    · rfl
    · cases s.arbiter.grant with
      | none =>
        dsimp only
        rw [show chooseHolder (withLink l s) = chooseHolder s from rfl]
        cases chooseHolder s with
        | none => rfl
        | some h =>
          dsimp only
          rw [grantPort_withLink, ih]
      | some h =>
        dsimp only
        rw [holderAccess_withLink]
        cases holderAccess h s with
        | none =>
          dsimp only
          rw [releasePort_withLink, ih]
        | some a =>
          dsimp only
          rw [issueAccess_withLink]
          cases issueAccess a s with
          | none =>
            dsimp only [Option.map]
            rw [holderResult_withLink, ih]
          | some x => rfl

theorem arbitrate_withLink : arbitrate (withLink l s) = withLink l (arbitrate s) := by
  unfold arbitrate
  rw [isRunning_withLink]
  split
  · exact servePort_withLink ..
  · rfl


theorem linkAct_withLink (i : Instr) : linkAct i (withLink l s) = (withLink l (linkAct i s).1, (linkAct i s).2) := by
  cases i <;> try rfl
  case commit =>
    show actCommit (withLink l s) = _
    unfold actCommit
    rw [commitRequest_withLink]
    rfl
  case abort =>
    show actAbort (withLink l s) = (withLink l (actAbort s).1, (actAbort s).2)
    unfold actAbort
    show (if s.ctl.state = .OPEN then _ else _) = _
    split
    · rw [enterRollback_withLink, abandonCapture_withLink, rollbackDrainCheck_withLink]
    · rfl
  case retryRestore =>
    show actRetryRestore (withLink l s) = (withLink l (actRetryRestore s).1, (actRetryRestore s).2)
    unfold actRetryRestore
    show (if s.ctl.state = .STALLED then _ else _) = _
    split
    · show (arbitrate (selectSlot (changeState (stateOfOrigin s.ctl.stallOrigin) (withLink l s))), _) = _
      rw [changeState_withLink, selectSlot_withLink, arbitrate_withLink]
    · rfl
  case discardJournal =>
    show actDiscardJournal (withLink l s) = (withLink l (actDiscardJournal s).1, (actDiscardJournal s).2)
    unfold actDiscardJournal
    show (if s.ctl.state = .STALLED then _ else _) = _
    split
    · show ((if s.writes.contains .DISCARD then _ else _), _) = _
      split <;> rfl
    · rfl
  case stageRegion i k b lm m w q a =>
    show actStageRegion i k b lm m w q a (withLink l s) =
      (withLink l (actStageRegion i k b lm m w q a s).1, (actStageRegion i k b lm m w q a s).2)
    unfold actStageRegion
    split <;> rfl
  case readRegion i q =>
    show actReadRegion i q (withLink l s) = (withLink l (actReadRegion i q s).1, (actReadRegion i q s).2)
    unfold actReadRegion
    split <;> rfl
  case clearTrip i =>
    show actClearTrip i (withLink l s) = (withLink l (actClearTrip i s).1, (actClearTrip i s).2)
    unfold actClearTrip
    split
    · rfl
    · next k _ =>
        show (if (s.meters.get k).trip = .TRIPPED then _ else _) = _
        split <;> rfl
  case setConfig a b c d =>
    show actSetConfig a b c d (withLink l s) = (withLink l (actSetConfig a b c d s).1, (actSetConfig a b c d s).2)
    unfold actSetConfig
    split <;> rfl
  case setEnables a =>
    show actSetEnables a (withLink l s) = (withLink l (actSetEnables a s).1, (actSetEnables a s).2)
    unfold actSetEnables
    split <;> rfl
  case takeRefusals a =>
    show actTakeRefusals a (withLink l s) = (withLink l (actTakeRefusals a s).1, (actTakeRefusals a s).2)
    unfold actTakeRefusals
    show (if _ then _ else _) = _
    split <;> rfl

end Sys2Proof.Machine
end

