-- ==== Sys2Proof/Laws/PerInstr.lean ====
section
/-! SUPPORT. A statement for each command: the frame of a well-formed command has exactly the parameter bytes that its code asks for. -/

namespace Sys2Proof.Laws

/-- The frame of a well-formed command carries as many parameter bytes as section 11.2 gives its code, and none for a code that names no
command (R174, R185). It holds of a row that is no link command because that row has no frame. -/
def FrameLength.Statement (i : Instr) : Prop :=
  ∀ (code : Byte) (params : List Byte), i.wf = true → frameBytes i = some (code :: params) → (paramCount code).getD 0 = params.length

theorem FrameLength.hostRequest (op : HostOp) (addr : Addr) (size : Size) (tag : Tag) :
    FrameLength.Statement (.hostRequest op addr size tag) := by
  intro b params _ h
  cases h

theorem FrameLength.memoryResponse (tag : Tag) (answer : MemoryAnswer) : FrameLength.Statement (.memoryResponse tag answer) := by
  intro b params _ h
  cases h

theorem FrameLength.memoryResponseLimit : FrameLength.Statement .memoryResponseLimit := by
  intro b params _ h
  cases h

theorem FrameLength.holdDeadline : FrameLength.Statement .holdDeadline := by
  intro b params _ h
  cases h

theorem FrameLength.allocationWriteEnd : FrameLength.Statement .allocationWriteEnd := by
  intro b params _ h
  cases h

theorem FrameLength.completionWriteEnd : FrameLength.Statement .completionWriteEnd := by
  intro b params _ h
  cases h

theorem FrameLength.releaseWriteEnd : FrameLength.Statement .releaseWriteEnd := by
  intro b params _ h
  cases h

theorem FrameLength.sealWriteEnd : FrameLength.Statement .sealWriteEnd := by
  intro b params _ h
  cases h

theorem FrameLength.clearWriteEnd : FrameLength.Statement .clearWriteEnd := by
  intro b params _ h
  cases h

theorem FrameLength.unwindingMarkEnd : FrameLength.Statement .unwindingMarkEnd := by
  intro b params _ h
  cases h

theorem FrameLength.retireWriteEnd : FrameLength.Statement .retireWriteEnd := by
  intro b params _ h
  cases h

theorem FrameLength.finishWriteEnd : FrameLength.Statement .finishWriteEnd := by
  intro b params _ h
  cases h

theorem FrameLength.discardWriteEnd : FrameLength.Statement .discardWriteEnd := by
  intro b params _ h
  cases h

theorem FrameLength.markRequest : FrameLength.Statement .markRequest := by
  intro b params _ h
  cases h

theorem FrameLength.autoCommitExpiry : FrameLength.Statement .autoCommitExpiry := by
  intro b params _ h
  cases h

theorem FrameLength.windowBoundary : FrameLength.Statement .windowBoundary := by
  intro b params _ h
  cases h

theorem FrameLength.vddFail : FrameLength.Statement .vddFail := by
  intro b params _ h
  cases h

theorem FrameLength.vddSwitchOver (vbkBelowMinimum : Bool) : FrameLength.Statement (.vddSwitchOver vbkBelowMinimum) := by
  intro b params _ h
  cases h

theorem FrameLength.vddGood : FrameLength.Statement .vddGood := by
  intro b params _ h
  cases h

theorem FrameLength.settleTimerExpiry : FrameLength.Statement .settleTimerExpiry := by
  intro b params _ h
  cases h

theorem FrameLength.vbkLow : FrameLength.Statement .vbkLow := by
  intro b params _ h
  cases h

theorem FrameLength.firstPower : FrameLength.Statement .firstPower := by
  intro b params _ h
  cases h

theorem FrameLength.rstAssert : FrameLength.Statement .rstAssert := by
  intro b params _ h
  cases h

theorem FrameLength.rstRelease : FrameLength.Statement .rstRelease := by
  intro b params _ h
  cases h

theorem FrameLength.bootCountWriteEnd : FrameLength.Statement .bootCountWriteEnd := by
  intro b params _ h
  cases h

theorem FrameLength.initialisationWriteEnd : FrameLength.Statement .initialisationWriteEnd := by
  intro b params _ h
  cases h

theorem FrameLength.mcsFall : FrameLength.Statement .mcsFall := by
  intro b params _ h
  cases h

theorem FrameLength.mcsRise : FrameLength.Statement .mcsRise := by
  intro b params _ h
  cases h

theorem FrameLength.readStatus : FrameLength.Statement .readStatus := by
  intro b params _ h
  cases h
  rfl

theorem FrameLength.commit : FrameLength.Statement .commit := by
  intro b params _ h
  cases h
  rfl

theorem FrameLength.abort : FrameLength.Statement .abort := by
  intro b params _ h
  cases h
  rfl

theorem FrameLength.retryRestore : FrameLength.Statement .retryRestore := by
  intro b params _ h
  cases h
  rfl

theorem FrameLength.discardJournal : FrameLength.Statement .discardJournal := by
  intro b params _ h
  cases h
  rfl

theorem FrameLength.stageRegion (index kind : Byte) (base limit : BitVec 24) (metered : Byte) (writeLimit : BitVec 24) (qualify action : Byte) :
    FrameLength.Statement (.stageRegion index kind base limit metered writeLimit qualify action) := by
  intro b params _ h
  cases h
  rfl

theorem FrameLength.clearStaged : FrameLength.Statement .clearStaged := by
  intro b params _ h
  cases h
  rfl

theorem FrameLength.readRegion (index selection : Byte) : FrameLength.Statement (.readRegion index selection) := by
  intro b params _ h
  cases h
  rfl

theorem FrameLength.clearTrip (index : Byte) : FrameLength.Statement (.clearTrip index) := by
  intro b params _ h
  cases h
  rfl

theorem FrameLength.setConfig (window hold level : Byte) (interval : BitVec 16) :
    FrameLength.Statement (.setConfig window hold level interval) := by
  intro b params _ h
  cases h
  rfl

theorem FrameLength.readConfig : FrameLength.Statement .readConfig := by
  intro b params _ h
  cases h
  rfl

theorem FrameLength.setEnables (enables : BitVec 16) : FrameLength.Statement (.setEnables enables) := by
  intro b params _ h
  cases h
  rfl

theorem FrameLength.takeEvents : FrameLength.Statement .takeEvents := by
  intro b params _ h
  cases h
  rfl

theorem FrameLength.takeRefusals (n : Byte) : FrameLength.Statement (.takeRefusals n) := by
  intro b params _ h
  cases h
  rfl

theorem FrameLength.readFault : FrameLength.Statement .readFault := by
  intro b params _ h
  cases h
  rfl

theorem FrameLength.clearFault : FrameLength.Statement .clearFault := by
  intro b params _ h
  cases h
  rfl

theorem FrameLength.readOutcomes : FrameLength.Statement .readOutcomes := by
  intro b params _ h
  cases h
  rfl

theorem FrameLength.readEntry (slot : Byte) : FrameLength.Statement (.readEntry slot) := by
  intro b params _ h
  cases h
  rfl

theorem FrameLength.unknownCode (code : Byte) : FrameLength.Statement (.unknownCode code) := by
  intro b params hw h
  cases h
  have hn : paramCount code = none := by simpa [Instr.wf] using hw
  rw [hn]; rfl

theorem FrameLength.mckRisingEdge (mdi : Bool) : FrameLength.Statement (.mckRisingEdge mdi) := by
  intro b params _ h
  cases h

theorem FrameLength.markRisingEdge : FrameLength.Statement .markRisingEdge := by
  intro b params _ h
  cases h

theorem FrameLength.markFallingEdge : FrameLength.Statement .markFallingEdge := by
  intro b params _ h
  cases h

theorem FrameLength.rstFallingEdge : FrameLength.Statement .rstFallingEdge := by
  intro b params _ h
  cases h

end Sys2Proof.Laws
end

