-- ==== Sys2Proof/Laws/Shape.lean ====
section
/-! SUPPORT. The shape of every command: one plain update of the state (`Base`), and then internal work (`Internal`) alone. A rule of the
whole machine follows from the two halves. -/

namespace Sys2Proof.Machine

variable {s t u : State}

/-- The link commands whose take point writes a table, a setting, a flag or a record. -/
def isSetting : Instr → Bool
  | .stageRegion .. | .clearStaged | .clearTrip _ | .setConfig .. | .setEnables _ | .takeEvents | .takeRefusals _ | .clearFault => true
  | _ => false

/-- The rows of the supply and of RST#. -/
def isSupplyRow : Instr → Bool
  | .vddFail | .vddSwitchOver _ | .vddGood | .settleTimerExpiry | .vbkLow | .firstPower | .rstAssert | .rstRelease
  | .rstFallingEdge => true
  | _ => false

/-- The row of the host port. -/
def isRequest : Instr → Bool
  | .hostRequest .. => true
  | _ => false

/-- The plain update with which a command begins. -/
inductive Base (s : State) : Instr → State → Prop where
  | same (c : Instr) (h : isRequest c = true → s.supply = .BACKUP ∨ (isRunning s = true ∧ s.host.isSome = true)) : Base s c s
  | answered (op : HostOp) (addr : Addr) (size : Size) (tag : Tag) (r : HostResponse) (hr : isRunning s = false) (hb : s.supply ≠ .BACKUP)
      (ht : r.tag = tag) : Base s (.hostRequest op addr size tag) { s with responses := s.responses ++ [r] }
  | arrived (op : HostOp) (addr : Addr) (size : Size) (tag : Tag) (job : HostJob) (hr : isRunning s = true) (hn : s.host = none)
      (ht : job.tag = tag) : Base s (.hostRequest op addr size tag) { s with host := some job }
  | mark (c : Instr) (m : MarkLine) (hc : c = .markRequest ∨ c = .markRisingEdge ∨ c = .markFallingEdge) : Base s c { s with mark := m }
  | window (hr : isRunning s = true) : Base s .windowBoundary
      { s with meters := tabulate (fun i => boundaryMeter (s.active.get i) (s.meters.get i))
               window := { length := windowLength s.cfg.windowCode, elapsed := 0 } }
  | write (w : RetentionWrite) (r : Retention) (ws : List RetentionWrite) (ix : List (Line × SlotNo)) (h : s.writes.head? = some w)
      (m : WriteMade s w r) (hw : ws = s.writes.tail ∨ ws = []) (hn : w ≠ .BOOT_COUNT ∧ w ≠ .INITIALISATION ∧ w ≠ .SEAL) :
      Base s (endRow w) { s with retention := r, writes := ws, writeBegun := !ws.isEmpty, index := ix }
  | dropped (c : Instr) (hs : isSupplyRow c = false) (hr : isRequest c = false) : Base s c (endWrite s)
  | sealing (h : s.writes.head? = some .SEAL) : Base s .sealWriteEnd
      (applyStaged { endWrite s with retention := sealWrite s.uptime.ms s.retention })
  | restarted (w : RetentionWrite) (r : Retention) (h : s.writes.head? = some w) (m : WriteMade s w r)
      (hw : w = .BOOT_COUNT ∨ w = .INITIALISATION) : Base s (endRow w) { s with
        retention := r, writes := s.writes.tail, writeBegun := !s.writes.tail.isEmpty, supply := .RUN, settle := .STOPPED, resetInForce :=
            false
        uptime := { ms := 0, us := 0 }, window := { length := 16, elapsed := 0 }, ctl := { s.ctl with state := .RECOVERY } }
  | supply (c : Instr) (t : State) (h : exec c s = .next t) (hc : isSupplyRow c = true) : Base s c t
  | link (c : Instr) (l : Link) (hc : isSupplyRow c = false) (hr : isRequest c = false) (hb : s.link.bitCount ≤ 7 → l.bitCount ≤ 7) :
      Base s c { s with link := l }
  | setting (c i : Instr) (l : Link) (hi : isSetting i = true) (hc : c = i ∨ ∃ mdi, c = .mckRisingEdge mdi)
      (hb : s.link.bitCount ≤ 7 → l.bitCount ≤ 7) : Base s c { (linkAct i s).1 with link := l }

theorem makeWrite_allocation {job : CaptureJob} (h : s.capture = some job) :
    makeWrite .ALLOCATION s = store (allocationWrite job.line job.region) s := by simp [makeWrite, writeEffect, store, h]

theorem makeWrite_completion {job : CaptureJob} (h : s.capture = some job) :
    makeWrite .COMPLETION s = store (completionWrite job.slot (imageOfWords job.words)) s := by simp [makeWrite, writeEffect, store, h]

theorem makeWrite_release {job : CaptureJob} (h : s.capture = some job) :
    makeWrite .RELEASE s = store (releaseWrite job.slot) s := by simp [makeWrite, writeEffect, store, h]

/-- A write made is what its rule gives (section 1.5, R2). -/
theorem writeEffect_of_made {w : RetentionWrite} {r : Retention} (m : WriteMade s w r) : writeEffect s w s.retention = r := by
  cases m with
  | allocation job h => simp [writeEffect, h]
  | completion job h => simp [writeEffect, h]
  | release job h => simp [writeEffect, h]
  | noCapture w hw h => rcases hw with rfl | rfl | rfl <;> simp [writeEffect, h]
  | _ => rfl

/-- Every write makes something of the store. -/
theorem writeMade (s : State) (w : RetentionWrite) : WriteMade s w (writeEffect s w s.retention) := by
  cases w
  case ALLOCATION =>
    cases h : s.capture with
    | none => simpa [writeEffect, h] using WriteMade.noCapture (s := s) .ALLOCATION (by simp) h
    | some job => simpa [writeEffect, h] using WriteMade.allocation job h
  case COMPLETION =>
    cases h : s.capture with
    | none => simpa [writeEffect, h] using WriteMade.noCapture (s := s) .COMPLETION (by simp) h
    | some job => simpa [writeEffect, h] using WriteMade.completion job h
  case RELEASE =>
    cases h : s.capture with
    | none => simpa [writeEffect, h] using WriteMade.noCapture (s := s) .RELEASE (by simp) h
    | some job => simpa [writeEffect, h] using WriteMade.release job h
  all_goals constructor

/-- With none begun at a stop, none is made. -/
@[simp] theorem begunWrites_zero (ws : List RetentionWrite) : begunWrites ws 0 = [] := by cases ws <;> rfl

/-- With none asked for, none is made. -/
@[simp] theorem begunWrites_nil (n : Nat) : begunWrites [] n = [] := rfl

/-- What n writes begun at a stop leave: each is made, in turn, and nothing but the store is touched (R1). -/
theorem foldl_makeWrite (ws : List RetentionWrite) (s : State) :
    ∃ r, WritesMade s ws s.retention r ∧ ws.foldl (fun u w => makeWrite w u) s = { s with retention := r } := by
  have key : ∀ (ws : List RetentionWrite) (r : Retention), ∃ r', WritesMade s ws r r' ∧
      ws.foldl (fun u w => makeWrite w u) { s with retention := r } = { s with retention := r' } := by
    intro ws
    induction ws with
    | nil => exact fun r => ⟨r, .none r, rfl⟩
    | cons w ws ih =>
      intro r
      obtain ⟨r', h, e⟩ := ih (writeEffect { s with retention := r } w r)
      exact ⟨r', .next w ws r _ r' (writeMade _ w) h, e⟩
  exact key ws s.retention

/-- A stop's begun writes, made (R1). -/
theorem endBegunWrites_eq (n : Nat) (s : State) :
    ∃ r, WritesMade s (begunWrites s.writes n) s.retention r ∧ endBegunWrites n s = { s with retention := r } :=
  foldl_makeWrite _ s

theorem internal_link (l : Link) (h : Internal s t) : Internal { s with link := l } { t with link := l } := { h with link := rfl }

theorem gainByte_bitCount (b : Byte) (l : Link) : (gainByte b l).bitCount = 0 := by
  unfold gainByte; split <;> rfl

theorem nextAnswerBit_bitCount (l : Link) : (nextAnswerBit l).bitCount = l.bitCount := by
  unfold nextAnswerBit present; dsimp only; split <;> rfl

/-- The take point of a link command: a setting writes its state whole, every other command does internal work. -/
theorem internal_linkAct (i : Instr) (h : isSetting i = false) : Internal s (linkAct i s).1 := by
  cases i <;> first | exact absurd h Bool.noConfusion | skip
  case commit => exact internal_commitRequest (Internal.refl _)
  case abort =>
    show Internal s (actAbort s).1
    unfold actAbort
    split
    · exact internal_rollbackDrainCheck (internal_abandonCapture (internal_enterRollback _ (Internal.refl _)))
    · exact Internal.refl _
  case retryRestore =>
    show Internal s (actRetryRestore s).1
    unfold actRetryRestore
    split
    · exact internal_arbitrate (internal_selectSlot (internal_changeState _ (by unfold stateOfOrigin; split <;> simp) (Internal.refl _)))
    · exact Internal.refl _
  case discardJournal =>
    show Internal s (actDiscardJournal s).1
    unfold actDiscardJournal
    split
    · dsimp only
      split
      · exact Internal.refl _
      · exact internal_askWrite rfl (Internal.refl _)
    · exact Internal.refl _
  case readRegion a b =>
    show Internal s (actReadRegion a b s).1
    unfold actReadRegion
    split <;> exact Internal.refl _
  all_goals exact Internal.refl s

theorem base_takePoint (c i : Instr) (l : Link) (hc : c = i ∨ ∃ mdi, c = .mckRisingEdge mdi) (hs : isSupplyRow c = false)
    (hr : isRequest c = false) (hb : s.link.bitCount ≤ 7 → l.bitCount ≤ 7) :
    ∃ b, Base s c b ∧ Internal b { (linkAct i s).1 with link := l } := by
  by_cases hi : isSetting i = true
  · exact ⟨_, .setting c i l hi hc hb, Internal.refl _⟩
  · exact ⟨_, .link c l hs hr hb, internal_link l (internal_linkAct i (by simpa using hi))⟩

theorem base_atTakePoint (i : Instr) (hs : isSupplyRow i = false) (hr : isRequest i = false) :
    ∃ b, Base s i b ∧ Internal b (atTakePoint i (linkAct i) s) := by
  unfold atTakePoint
  split
  · split
    · exact base_takePoint i i _ (.inl rfl) hs hr (fun _ => Nat.zero_le _)
    · exact ⟨s, .same _ (by simp [hr]), Internal.refl _⟩
  · exact ⟨s, .same _ (by simp [hr]), Internal.refl _⟩

/-- The end of a write of the running part: its plain update, then internal work; nothing where it is not the write in progress. -/
theorem base_write {c : Instr} {w : RetentionWrite} {f : State → State} (hr : isRequest c = false)
    (h : s.writes.head? = some w → ∃ b, Base s c b ∧ Internal b (f (endWrite s))) :
    ∃ b, Base s c b ∧ Internal b (whenWriteEnds w f s) := by
  unfold whenWriteEnds
  split
  · next hw => exact h hw
  · exact ⟨s, .same _ (by simp [hr]), Internal.refl _⟩

theorem base_allocation : ∃ b, Base s .allocationWriteEnd b ∧ Internal b (whenWriteEnds .ALLOCATION allocationEnds s) := by
  refine base_write rfl fun hw => ?_
  unfold allocationEnds
  split
  · next job k hj _ =>
    refine ⟨_, .write .ALLOCATION _ s.writes.tail (s.index ++ [(job.line, k)]) hw (.allocation job hj) (.inl rfl) (by simp), ?_⟩
    rw [makeWrite_allocation hj]
    have hh := internal_highWaterCheck (Internal.refl (indexGain job.line k (store (allocationWrite job.line job.region) (endWrite s))))
    exact internal_arbitrate { hh with }
  · exact ⟨_, .dropped _ rfl rfl, Internal.refl _⟩

theorem base_completion : ∃ b, Base s .completionWriteEnd b ∧ Internal b (whenWriteEnds .COMPLETION completionEnds s) := by
  refine base_write rfl fun hw => ?_
  unfold completionEnds
  split
  · exact ⟨_, .dropped _ rfl rfl, Internal.refl _⟩
  · next job hj =>
    refine ⟨_, .write .COMPLETION _ s.writes.tail s.index hw (.completion job hj) (.inl rfl) (by simp), ?_⟩
    rw [makeWrite_completion hj]
    have hh := internal_postWrite job.addr job.size job.data .GUARDED (some job.region)
      (Internal.refl (store (completionWrite job.slot (imageOfWords job.words)) (endWrite s)))
    exact internal_arbitrate (internal_drainCheck { hh with })

theorem base_release : ∃ b, Base s .releaseWriteEnd b ∧ Internal b (whenWriteEnds .RELEASE releaseEnds s) := by
  refine base_write rfl fun hw => ?_
  unfold releaseEnds
  split
  · exact ⟨_, .dropped _ rfl rfl, Internal.refl _⟩
  · next job hj =>
    rw [makeWrite_release hj]
    have i0 := Internal.refl (indexLose job.slot (store (releaseWrite job.slot) (endWrite s)))
    refine ⟨_, .write .RELEASE _ s.writes.tail (s.index.filter (fun e => e.2 != job.slot)) hw (.release job hj) (.inl rfl) (by simp), ?_⟩
    dsimp only
    split
    · split
      · exact internal_refuseHost _ _ i0
      · exact internal_drainCheck { internal_refuseHost .ABORTED (some job.region) i0 with }
    · exact internal_drainCheck { internal_captureFault job (internal_refuseHost .MEMORY (some job.region) i0) with }

theorem base_seal : ∃ b, Base s .sealWriteEnd b ∧ Internal b (whenWriteEnds .SEAL sealEnds s) :=
  base_write rfl fun hw => ⟨_, .sealing hw, internal_askWrite rfl (Internal.refl _)⟩

theorem base_clear : ∃ b, Base s .clearWriteEnd b ∧ Internal b (whenWriteEnds .CLEAR clearEnds s) :=
  base_write rfl fun hw => ⟨_, .write .CLEAR _ s.writes.tail [] hw .clear (.inl rfl) (by simp),
    internal_arbitrate (internal_enterOpen (internal_setEvent _ (Internal.refl _)))⟩

theorem base_mark : ∃ b, Base s .unwindingMarkEnd b ∧ Internal b (whenWriteEnds .MARK markEnds s) :=
  base_write rfl fun hw => ⟨_, .write .MARK _ s.writes.tail s.index hw .mark (.inl rfl) (by simp),
    internal_arbitrate (internal_startUnwind (internal_ctl _ id (Internal.refl _)))⟩

theorem base_retire : ∃ b, Base s .retireWriteEnd b ∧ Internal b (whenWriteEnds .RETIRE retireEnds s) := by
  refine base_write rfl fun hw => ?_
  have key : ∀ b : State, Internal b (arbitrate (if b.retention.header.count = 0 then unwindOver b else selectSlot b)) := by
    intro b
    refine internal_arbitrate ?_
    split
    · exact internal_unwindOver (Internal.refl _)
    · exact internal_selectSlot (Internal.refl _)
  unfold retireEnds
  cases hk : newestSlot (endWrite s).retention with
  | none => exact ⟨_, .write .RETIRE _ s.writes.tail s.index hw .retire (.inl rfl) (by simp), key _⟩
  | some k =>
    exact ⟨_, .write .RETIRE _ s.writes.tail (s.index.filter (fun e => e.2 != k)) hw .retire (.inl rfl) (by simp),
      key _⟩

theorem base_finish : ∃ b, Base s .finishWriteEnd b ∧ Internal b (whenWriteEnds .FINISH finishEnds s) :=
  base_write rfl fun hw => ⟨_, .write .FINISH _ s.writes.tail s.index hw .finish (.inl rfl) (by simp),
    internal_arbitrate (internal_unwindOver (Internal.refl _))⟩

theorem base_discard : ∃ b, Base s .discardWriteEnd b ∧ Internal b (whenWriteEnds .DISCARD discardEnds s) :=
  base_write rfl fun hw => ⟨_, .write .DISCARD _ [] [] hw .discard (.inr rfl) (by simp),
    internal_arbitrate (internal_enterOpen (internal_restoreToIdle (Internal.refl _)))⟩

/-- Step 5 of a restart: the part runs again, in RECOVERY for the shape's sake, and the controller chooses its state (R48, R161). -/
theorem base_restarted {w : RetentionWrite} (f : Retention → Retention) (h : s.writes.head? = some w) (m : WriteMade s w (f s.retention))
    (hw : w = .BOOT_COUNT ∨ w = .INITIALISATION) :
    ∃ b, Base s (endRow w) b ∧ Internal b (endRestart (store f (endWrite s))) := by
  refine ⟨_, .restarted w _ h m hw, ?_⟩
  unfold endRestart chooseFirstState
  generalize hu : ({ (store f (endWrite s)) with
      supply := .RUN, settle := .STOPPED, resetInForce := false, uptime := { ms := 0, us := 0 },
      window := { length := 16, elapsed := 0 } } :
      State) = u
  have e : { s with
      retention := f s.retention, writes := s.writes.tail, writeBegun := !s.writes.tail.isEmpty, supply := .RUN, settle := .STOPPED,
          resetInForce := false
      uptime := { ms := 0, us := 0 }, window := { length := 16, elapsed := 0 }, ctl := { s.ctl with state := .RECOVERY } } =
      ({ u with ctl := { u.ctl with state := .RECOVERY } } : State) := by rw [← hu]; rfl
  rw [e]
  split
  · exact internal_enterOpen (t := setEvent .RESTARTED { u with ctl := { u.ctl with state := .RECOVERY } })
      (internal_setEvent _ (Internal.refl _))
  · unfold startRecovery
    dsimp only
    split
    · exact internal_askWrite rfl (Internal.refl _)
    · exact internal_startUnwind (Internal.refl _)
    · exact internal_askWrite rfl (Internal.refl _)
    · exact internal_askWrite rfl (Internal.refl _)

/-- Every command is a plain update and then internal work. -/
theorem exec_shape (c : Instr) (s : State) : ∃ b t, exec c s = .next t ∧ Base s c b ∧ Internal b t := by
  have put : ∀ {t : State}, exec c s = .next t → (∃ b, Base s c b ∧ Internal b t) → ∃ b t, exec c s = .next t ∧ Base s c b ∧ Internal b t :=
    fun h ⟨b, h1, h2⟩ => ⟨b, _, h, h1, h2⟩
  have stay : isRequest c = false → ∀ {t : State}, Internal s t → ∃ b, Base s c b ∧ Internal b t :=
    fun hr _ h => ⟨s, .same c (by simp [hr]), h⟩
  have I := Internal.refl s
  cases c
  case hostRequest op addr size tag =>
    refine put rfl ?_
    split
    · next hb => exact ⟨s, .same _ (fun _ => .inl hb), I⟩
    · next hb =>
      unfold hostRequest
      split
      · next hr => exact ⟨_, .answered op addr size tag _ hr hb rfl, Internal.refl _⟩
      · next hr =>
        split
        · next hh => exact ⟨s, .same _ (fun _ => .inr ⟨by simpa using hr, hh⟩), I⟩
        · next hn =>
          exact ⟨_, .arrived op addr size tag
              { op := op, addr := addr, size := size, tag := tag, stage := .HELD (holdLimit s.cfg.holdCode), region := none }
              (by simpa using hr) (by simpa using hn) rfl,
            internal_arbitrate (internal_reevaluate (Internal.refl _))⟩
  case memoryResponse tag a =>
    refine put rfl (stay rfl ?_)
    split
    · exact I
    · exact internal_takeResponse _ _ I
  case memoryResponseLimit => exact put rfl (stay rfl (internal_takeResponseLimit I))
  case holdDeadline =>
    refine put rfl (stay rfl ?_)
    split
    · exact I
    · split
      · exact internal_refuseHost _ _ I
      · exact I
  case allocationWriteEnd => exact put rfl base_allocation
  case completionWriteEnd => exact put rfl base_completion
  case releaseWriteEnd => exact put rfl base_release
  case sealWriteEnd => exact put rfl base_seal
  case clearWriteEnd => exact put rfl base_clear
  case unwindingMarkEnd => exact put rfl base_mark
  case retireWriteEnd => exact put rfl base_retire
  case finishWriteEnd => exact put rfl base_finish
  case discardWriteEnd => exact put rfl base_discard
  case bootCountWriteEnd =>
    refine put rfl (base_write rfl fun hw => ?_)
    obtain ⟨b, h1, h2⟩ := base_restarted bootCountWrite hw .bootCount (.inl rfl)
    exact ⟨b, h1, internal_arbitrate h2⟩
  case initialisationWriteEnd =>
    refine put rfl (base_write rfl fun hw => ?_)
    obtain ⟨b, h1, h2⟩ := base_restarted initialisationWrite hw .initialisation (.inr rfl)
    exact ⟨b, h1, internal_arbitrate (internal_setEvent _ h2)⟩
  case markRequest =>
    refine put rfl ?_
    split
    · exact ⟨_, .mark _ .HIGH (.inl rfl), internal_commitRequest (Internal.refl _)⟩
    · exact stay rfl I
  case autoCommitExpiry =>
    refine put rfl (stay rfl ?_)
    split
    · exact internal_commitRequest (internal_ctl _ id I)
    · exact I
  case windowBoundary =>
    refine put rfl ?_
    split
    · next hr =>
      refine ⟨_, .window (Bool.and_eq_true_iff.mp hr).1, ?_⟩
      unfold windowBoundary
      dsimp only
      have k : ∀ v u : State, Internal v u → Internal v
          (if (trippingRegions s).any (fun i => (s.active.get i).action == .ROLLBACK) = true then orderTripRollback u else u) := by
        intro v u hu
        split
        · exact internal_orderTripRollback hu
        · exact hu
      refine k _ _ ?_
      split
      · exact Internal.refl _
      · exact internal_setEvent _ (Internal.refl _)
    · exact stay rfl I
  case markRisingEdge =>
    refine put rfl ?_
    split
    · exact ⟨_, .mark _ _ (.inr (.inl rfl)), Internal.refl _⟩
    · exact stay rfl I
  case markFallingEdge => exact put rfl ⟨_, .mark _ _ (.inr (.inr rfl)), Internal.refl _⟩
  case vddFail => exact put rfl ⟨_, .supply _ _ rfl rfl, Internal.refl _⟩
  case vddSwitchOver v => exact put rfl ⟨_, .supply _ _ rfl rfl, Internal.refl _⟩
  case vddGood => exact put rfl ⟨_, .supply _ _ rfl rfl, Internal.refl _⟩
  case settleTimerExpiry => exact put rfl ⟨_, .supply _ _ rfl rfl, Internal.refl _⟩
  case vbkLow => exact put rfl ⟨_, .supply _ _ rfl rfl, Internal.refl _⟩
  case firstPower => exact put rfl ⟨_, .supply _ _ rfl rfl, Internal.refl _⟩
  case rstAssert => exact put rfl ⟨_, .supply _ _ rfl rfl, Internal.refl _⟩
  case rstRelease => exact put rfl ⟨_, .supply _ _ rfl rfl, Internal.refl _⟩
  case rstFallingEdge => exact put rfl ⟨_, .supply _ _ rfl rfl, Internal.refl _⟩
  case mcsFall =>
    refine put rfl ?_
    split
    · exact ⟨_, .link _ _ rfl rfl (fun _ => Nat.zero_le _), Internal.refl _⟩
    · exact stay rfl I
  case mcsRise =>
    refine put rfl ?_
    split
    · exact stay rfl I
    · exact ⟨_, .link _ idleLink rfl rfl (fun _ => Nat.zero_le _), internal_setEvent _ (Internal.refl _)⟩
    · exact ⟨_, .link _ _ rfl rfl (fun _ => Nat.zero_le _), Internal.refl _⟩
    · exact ⟨_, .link _ _ rfl rfl (fun _ => Nat.zero_le _), Internal.refl _⟩
  case mckRisingEdge mdi =>
    refine put rfl ?_
    split
    · unfold sampleBit
      dsimp only
      split
      · unfold byteWhole
        dsimp only
        split
        · exact ⟨_, .link _ _ rfl rfl (fun _ => by rw [gainByte_bitCount]; exact Nat.zero_le _), Internal.refl _⟩
        · split
          · exact base_takePoint _ _ _ (.inr ⟨mdi, rfl⟩) rfl rfl (fun _ => Nat.zero_le _)
          · exact ⟨_, .link _ _ rfl rfl (fun _ => by show (gainByte _ _).bitCount ≤ 7; rw [gainByte_bitCount]; exact Nat.zero_le _),
                Internal.refl _⟩
      · exact ⟨_, .link _ _ rfl rfl (fun _ => by show s.link.bitCount + 1 ≤ 7; omega), Internal.refl _⟩
    · exact ⟨_, .link _ _ rfl rfl (fun hb => by rw [nextAnswerBit_bitCount]; exact hb), Internal.refl _⟩
    · exact stay rfl I
    · exact stay rfl I
  case unknownCode code =>
    refine put rfl ?_
    split
    · exact base_atTakePoint (.unknownCode code) rfl rfl
    · exact stay rfl I
  case readStatus => exact put rfl (base_atTakePoint .readStatus rfl rfl)
  case commit => exact put rfl (base_atTakePoint .commit rfl rfl)
  case abort => exact put rfl (base_atTakePoint .abort rfl rfl)
  case retryRestore => exact put rfl (base_atTakePoint .retryRestore rfl rfl)
  case discardJournal => exact put rfl (base_atTakePoint .discardJournal rfl rfl)
  case stageRegion a b c d e f g h => exact put rfl (base_atTakePoint (.stageRegion a b c d e f g h) rfl rfl)
  case clearStaged => exact put rfl (base_atTakePoint .clearStaged rfl rfl)
  case readRegion a b => exact put rfl (base_atTakePoint (.readRegion a b) rfl rfl)
  case clearTrip a => exact put rfl (base_atTakePoint (.clearTrip a) rfl rfl)
  case setConfig a b c d => exact put rfl (base_atTakePoint (.setConfig a b c d) rfl rfl)
  case readConfig => exact put rfl (base_atTakePoint .readConfig rfl rfl)
  case setEnables a => exact put rfl (base_atTakePoint (.setEnables a) rfl rfl)
  case takeEvents => exact put rfl (base_atTakePoint .takeEvents rfl rfl)
  case takeRefusals a => exact put rfl (base_atTakePoint (.takeRefusals a) rfl rfl)
  case readFault => exact put rfl (base_atTakePoint .readFault rfl rfl)
  case clearFault => exact put rfl (base_atTakePoint .clearFault rfl rfl)
  case readOutcomes => exact put rfl (base_atTakePoint .readOutcomes rfl rfl)
  case readEntry a => exact put rfl (base_atTakePoint (.readEntry a) rfl rfl)

end Sys2Proof.Machine
end

