-- ==== Sys2Proof/Laws/State.lean ====
section
/-! SUPPORT. What each named update of the state leaves in each field: true by rfl, so that no proof unfolds an update. -/

namespace Sys2Proof.Machine

/-! One retention write (R1). -/

@[simp] theorem store_retention (f : Retention → Retention) (s : State) : (store f s).retention = f s.retention := rfl
@[simp] theorem store_writes (f : Retention → Retention) (s : State) : (store f s).writes = s.writes := rfl
@[simp] theorem store_writeBegun (f : Retention → Retention) (s : State) : (store f s).writeBegun = s.writeBegun := rfl
@[simp] theorem store_host (f : Retention → Retention) (s : State) : (store f s).host = s.host := rfl
@[simp] theorem store_responses (f : Retention → Retention) (s : State) : (store f s).responses = s.responses := rfl
@[simp] theorem store_capture (f : Retention → Retention) (s : State) : (store f s).capture = s.capture := rfl
@[simp] theorem store_index (f : Retention → Retention) (s : State) : (store f s).index = s.index := rfl
@[simp] theorem store_queue (f : Retention → Retention) (s : State) : (store f s).queue = s.queue := rfl
@[simp] theorem store_port (f : Retention → Retention) (s : State) : (store f s).port = s.port := rfl
@[simp] theorem store_arbiter (f : Retention → Retention) (s : State) : (store f s).arbiter = s.arbiter := rfl
@[simp] theorem store_ctl (f : Retention → Retention) (s : State) : (store f s).ctl = s.ctl := rfl
@[simp] theorem store_restore (f : Retention → Retention) (s : State) : (store f s).restore = s.restore := rfl
@[simp] theorem store_cfg (f : Retention → Retention) (s : State) : (store f s).cfg = s.cfg := rfl
@[simp] theorem store_active (f : Retention → Retention) (s : State) : (store f s).active = s.active := rfl
@[simp] theorem store_staged (f : Retention → Retention) (s : State) : (store f s).staged = s.staged := rfl
@[simp] theorem store_meters (f : Retention → Retention) (s : State) : (store f s).meters = s.meters := rfl
@[simp] theorem store_window (f : Retention → Retention) (s : State) : (store f s).window = s.window := rfl
@[simp] theorem store_report (f : Retention → Retention) (s : State) : (store f s).report = s.report := rfl
@[simp] theorem store_events (f : Retention → Retention) (s : State) : (store f s).events = s.events := rfl
@[simp] theorem store_supply (f : Retention → Retention) (s : State) : (store f s).supply = s.supply := rfl
@[simp] theorem store_settle (f : Retention → Retention) (s : State) : (store f s).settle = s.settle := rfl
@[simp] theorem store_rst (f : Retention → Retention) (s : State) : (store f s).rst = s.rst := rfl
@[simp] theorem store_resetInForce (f : Retention → Retention) (s : State) : (store f s).resetInForce = s.resetInForce := rfl
@[simp] theorem store_mark (f : Retention → Retention) (s : State) : (store f s).mark = s.mark := rfl
@[simp] theorem store_link (f : Retention → Retention) (s : State) : (store f s).link = s.link := rfl
@[simp] theorem store_uptime (f : Retention → Retention) (s : State) : (store f s).uptime = s.uptime := rfl
@[simp] theorem store_free (f : Retention → Retention) (s : State) : (store f s).free = s.free := rfl
@[simp] theorem store_pending (f : Retention → Retention) (s : State) : (store f s).pending = s.pending := rfl

/-! A retention write is asked for (R1). -/

@[simp] theorem askWrite_retention (w : RetentionWrite) (s : State) : (askWrite w s).retention = s.retention := rfl
@[simp] theorem askWrite_writes (w : RetentionWrite) (s : State) : (askWrite w s).writes = s.writes ++ [w] := rfl
@[simp] theorem askWrite_writeBegun (w : RetentionWrite) (s : State) : (askWrite w s).writeBegun = s.writeBegun := rfl
@[simp] theorem askWrite_host (w : RetentionWrite) (s : State) : (askWrite w s).host = s.host := rfl
@[simp] theorem askWrite_responses (w : RetentionWrite) (s : State) : (askWrite w s).responses = s.responses := rfl
@[simp] theorem askWrite_capture (w : RetentionWrite) (s : State) : (askWrite w s).capture = s.capture := rfl
@[simp] theorem askWrite_index (w : RetentionWrite) (s : State) : (askWrite w s).index = s.index := rfl
@[simp] theorem askWrite_queue (w : RetentionWrite) (s : State) : (askWrite w s).queue = s.queue := rfl
@[simp] theorem askWrite_port (w : RetentionWrite) (s : State) : (askWrite w s).port = s.port := rfl
@[simp] theorem askWrite_arbiter (w : RetentionWrite) (s : State) : (askWrite w s).arbiter = s.arbiter := rfl
@[simp] theorem askWrite_ctl (w : RetentionWrite) (s : State) : (askWrite w s).ctl = s.ctl := rfl
@[simp] theorem askWrite_restore (w : RetentionWrite) (s : State) : (askWrite w s).restore = s.restore := rfl
@[simp] theorem askWrite_cfg (w : RetentionWrite) (s : State) : (askWrite w s).cfg = s.cfg := rfl
@[simp] theorem askWrite_active (w : RetentionWrite) (s : State) : (askWrite w s).active = s.active := rfl
@[simp] theorem askWrite_staged (w : RetentionWrite) (s : State) : (askWrite w s).staged = s.staged := rfl
@[simp] theorem askWrite_meters (w : RetentionWrite) (s : State) : (askWrite w s).meters = s.meters := rfl
@[simp] theorem askWrite_window (w : RetentionWrite) (s : State) : (askWrite w s).window = s.window := rfl
@[simp] theorem askWrite_report (w : RetentionWrite) (s : State) : (askWrite w s).report = s.report := rfl
@[simp] theorem askWrite_events (w : RetentionWrite) (s : State) : (askWrite w s).events = s.events := rfl
@[simp] theorem askWrite_supply (w : RetentionWrite) (s : State) : (askWrite w s).supply = s.supply := rfl
@[simp] theorem askWrite_settle (w : RetentionWrite) (s : State) : (askWrite w s).settle = s.settle := rfl
@[simp] theorem askWrite_rst (w : RetentionWrite) (s : State) : (askWrite w s).rst = s.rst := rfl
@[simp] theorem askWrite_resetInForce (w : RetentionWrite) (s : State) : (askWrite w s).resetInForce = s.resetInForce := rfl
@[simp] theorem askWrite_mark (w : RetentionWrite) (s : State) : (askWrite w s).mark = s.mark := rfl
@[simp] theorem askWrite_link (w : RetentionWrite) (s : State) : (askWrite w s).link = s.link := rfl
@[simp] theorem askWrite_uptime (w : RetentionWrite) (s : State) : (askWrite w s).uptime = s.uptime := rfl
@[simp] theorem askWrite_free (w : RetentionWrite) (s : State) : (askWrite w s).free = s.free := rfl
@[simp] theorem askWrite_pending (w : RetentionWrite) (s : State) : (askWrite w s).pending = s.pending := rfl

/-! The retention write in progress ends (R1). -/

@[simp] theorem endWrite_retention (s : State) : (endWrite s).retention = s.retention := rfl
@[simp] theorem endWrite_writes (s : State) : (endWrite s).writes = s.writes.tail := rfl
@[simp] theorem endWrite_writeBegun (s : State) : (endWrite s).writeBegun = !s.writes.tail.isEmpty := rfl
@[simp] theorem endWrite_host (s : State) : (endWrite s).host = s.host := rfl
@[simp] theorem endWrite_responses (s : State) : (endWrite s).responses = s.responses := rfl
@[simp] theorem endWrite_capture (s : State) : (endWrite s).capture = s.capture := rfl
@[simp] theorem endWrite_index (s : State) : (endWrite s).index = s.index := rfl
@[simp] theorem endWrite_queue (s : State) : (endWrite s).queue = s.queue := rfl
@[simp] theorem endWrite_port (s : State) : (endWrite s).port = s.port := rfl
@[simp] theorem endWrite_arbiter (s : State) : (endWrite s).arbiter = s.arbiter := rfl
@[simp] theorem endWrite_ctl (s : State) : (endWrite s).ctl = s.ctl := rfl
@[simp] theorem endWrite_restore (s : State) : (endWrite s).restore = s.restore := rfl
@[simp] theorem endWrite_cfg (s : State) : (endWrite s).cfg = s.cfg := rfl
@[simp] theorem endWrite_active (s : State) : (endWrite s).active = s.active := rfl
@[simp] theorem endWrite_staged (s : State) : (endWrite s).staged = s.staged := rfl
@[simp] theorem endWrite_meters (s : State) : (endWrite s).meters = s.meters := rfl
@[simp] theorem endWrite_window (s : State) : (endWrite s).window = s.window := rfl
@[simp] theorem endWrite_report (s : State) : (endWrite s).report = s.report := rfl
@[simp] theorem endWrite_events (s : State) : (endWrite s).events = s.events := rfl
@[simp] theorem endWrite_supply (s : State) : (endWrite s).supply = s.supply := rfl
@[simp] theorem endWrite_settle (s : State) : (endWrite s).settle = s.settle := rfl
@[simp] theorem endWrite_rst (s : State) : (endWrite s).rst = s.rst := rfl
@[simp] theorem endWrite_resetInForce (s : State) : (endWrite s).resetInForce = s.resetInForce := rfl
@[simp] theorem endWrite_mark (s : State) : (endWrite s).mark = s.mark := rfl
@[simp] theorem endWrite_link (s : State) : (endWrite s).link = s.link := rfl
@[simp] theorem endWrite_uptime (s : State) : (endWrite s).uptime = s.uptime := rfl
@[simp] theorem endWrite_free (s : State) : (endWrite s).free = s.free := rfl
@[simp] theorem endWrite_pending (s : State) : (endWrite s).pending = s.pending := rfl

/-! The line index gains an entry (R10). -/

@[simp] theorem indexGain_retention (line : Line) (k : SlotNo) (s : State) : (indexGain line k s).retention = s.retention := rfl
@[simp] theorem indexGain_writes (line : Line) (k : SlotNo) (s : State) : (indexGain line k s).writes = s.writes := rfl
@[simp] theorem indexGain_writeBegun (line : Line) (k : SlotNo) (s : State) : (indexGain line k s).writeBegun = s.writeBegun := rfl
@[simp] theorem indexGain_host (line : Line) (k : SlotNo) (s : State) : (indexGain line k s).host = s.host := rfl
@[simp] theorem indexGain_responses (line : Line) (k : SlotNo) (s : State) : (indexGain line k s).responses = s.responses := rfl
@[simp] theorem indexGain_capture (line : Line) (k : SlotNo) (s : State) : (indexGain line k s).capture = s.capture := rfl
@[simp] theorem indexGain_index (line : Line) (k : SlotNo) (s : State) : (indexGain line k s).index = s.index ++ [(line, k)] := rfl
@[simp] theorem indexGain_queue (line : Line) (k : SlotNo) (s : State) : (indexGain line k s).queue = s.queue := rfl
@[simp] theorem indexGain_port (line : Line) (k : SlotNo) (s : State) : (indexGain line k s).port = s.port := rfl
@[simp] theorem indexGain_arbiter (line : Line) (k : SlotNo) (s : State) : (indexGain line k s).arbiter = s.arbiter := rfl
@[simp] theorem indexGain_ctl (line : Line) (k : SlotNo) (s : State) : (indexGain line k s).ctl = s.ctl := rfl
@[simp] theorem indexGain_restore (line : Line) (k : SlotNo) (s : State) : (indexGain line k s).restore = s.restore := rfl
@[simp] theorem indexGain_cfg (line : Line) (k : SlotNo) (s : State) : (indexGain line k s).cfg = s.cfg := rfl
@[simp] theorem indexGain_active (line : Line) (k : SlotNo) (s : State) : (indexGain line k s).active = s.active := rfl
@[simp] theorem indexGain_staged (line : Line) (k : SlotNo) (s : State) : (indexGain line k s).staged = s.staged := rfl
@[simp] theorem indexGain_meters (line : Line) (k : SlotNo) (s : State) : (indexGain line k s).meters = s.meters := rfl
@[simp] theorem indexGain_window (line : Line) (k : SlotNo) (s : State) : (indexGain line k s).window = s.window := rfl
@[simp] theorem indexGain_report (line : Line) (k : SlotNo) (s : State) : (indexGain line k s).report = s.report := rfl
@[simp] theorem indexGain_events (line : Line) (k : SlotNo) (s : State) : (indexGain line k s).events = s.events := rfl
@[simp] theorem indexGain_supply (line : Line) (k : SlotNo) (s : State) : (indexGain line k s).supply = s.supply := rfl
@[simp] theorem indexGain_settle (line : Line) (k : SlotNo) (s : State) : (indexGain line k s).settle = s.settle := rfl
@[simp] theorem indexGain_rst (line : Line) (k : SlotNo) (s : State) : (indexGain line k s).rst = s.rst := rfl
@[simp] theorem indexGain_resetInForce (line : Line) (k : SlotNo) (s : State) : (indexGain line k s).resetInForce = s.resetInForce := rfl
@[simp] theorem indexGain_mark (line : Line) (k : SlotNo) (s : State) : (indexGain line k s).mark = s.mark := rfl
@[simp] theorem indexGain_link (line : Line) (k : SlotNo) (s : State) : (indexGain line k s).link = s.link := rfl
@[simp] theorem indexGain_uptime (line : Line) (k : SlotNo) (s : State) : (indexGain line k s).uptime = s.uptime := rfl
@[simp] theorem indexGain_free (line : Line) (k : SlotNo) (s : State) : (indexGain line k s).free = s.free := rfl
@[simp] theorem indexGain_pending (line : Line) (k : SlotNo) (s : State) : (indexGain line k s).pending = s.pending := rfl

/-! The line index loses a slot (R9). -/

@[simp] theorem indexLose_retention (k : SlotNo) (s : State) : (indexLose k s).retention = s.retention := rfl
@[simp] theorem indexLose_writes (k : SlotNo) (s : State) : (indexLose k s).writes = s.writes := rfl
@[simp] theorem indexLose_writeBegun (k : SlotNo) (s : State) : (indexLose k s).writeBegun = s.writeBegun := rfl
@[simp] theorem indexLose_host (k : SlotNo) (s : State) : (indexLose k s).host = s.host := rfl
@[simp] theorem indexLose_responses (k : SlotNo) (s : State) : (indexLose k s).responses = s.responses := rfl
@[simp] theorem indexLose_capture (k : SlotNo) (s : State) : (indexLose k s).capture = s.capture := rfl
@[simp] theorem indexLose_index (k : SlotNo) (s : State) : (indexLose k s).index = s.index.filter (fun e => e.2 != k) := rfl
@[simp] theorem indexLose_queue (k : SlotNo) (s : State) : (indexLose k s).queue = s.queue := rfl
@[simp] theorem indexLose_port (k : SlotNo) (s : State) : (indexLose k s).port = s.port := rfl
@[simp] theorem indexLose_arbiter (k : SlotNo) (s : State) : (indexLose k s).arbiter = s.arbiter := rfl
@[simp] theorem indexLose_ctl (k : SlotNo) (s : State) : (indexLose k s).ctl = s.ctl := rfl
@[simp] theorem indexLose_restore (k : SlotNo) (s : State) : (indexLose k s).restore = s.restore := rfl
@[simp] theorem indexLose_cfg (k : SlotNo) (s : State) : (indexLose k s).cfg = s.cfg := rfl
@[simp] theorem indexLose_active (k : SlotNo) (s : State) : (indexLose k s).active = s.active := rfl
@[simp] theorem indexLose_staged (k : SlotNo) (s : State) : (indexLose k s).staged = s.staged := rfl
@[simp] theorem indexLose_meters (k : SlotNo) (s : State) : (indexLose k s).meters = s.meters := rfl
@[simp] theorem indexLose_window (k : SlotNo) (s : State) : (indexLose k s).window = s.window := rfl
@[simp] theorem indexLose_report (k : SlotNo) (s : State) : (indexLose k s).report = s.report := rfl
@[simp] theorem indexLose_events (k : SlotNo) (s : State) : (indexLose k s).events = s.events := rfl
@[simp] theorem indexLose_supply (k : SlotNo) (s : State) : (indexLose k s).supply = s.supply := rfl
@[simp] theorem indexLose_settle (k : SlotNo) (s : State) : (indexLose k s).settle = s.settle := rfl
@[simp] theorem indexLose_rst (k : SlotNo) (s : State) : (indexLose k s).rst = s.rst := rfl
@[simp] theorem indexLose_resetInForce (k : SlotNo) (s : State) : (indexLose k s).resetInForce = s.resetInForce := rfl
@[simp] theorem indexLose_mark (k : SlotNo) (s : State) : (indexLose k s).mark = s.mark := rfl
@[simp] theorem indexLose_link (k : SlotNo) (s : State) : (indexLose k s).link = s.link := rfl
@[simp] theorem indexLose_uptime (k : SlotNo) (s : State) : (indexLose k s).uptime = s.uptime := rfl
@[simp] theorem indexLose_free (k : SlotNo) (s : State) : (indexLose k s).free = s.free := rfl
@[simp] theorem indexLose_pending (k : SlotNo) (s : State) : (indexLose k s).pending = s.pending := rfl

/-! A meter record is replaced (R116). -/

@[simp] theorem putMeter_retention (i : RegionNo) (m : Meter) (s : State) : (putMeter i m s).retention = s.retention := rfl
@[simp] theorem putMeter_writes (i : RegionNo) (m : Meter) (s : State) : (putMeter i m s).writes = s.writes := rfl
@[simp] theorem putMeter_writeBegun (i : RegionNo) (m : Meter) (s : State) : (putMeter i m s).writeBegun = s.writeBegun := rfl
@[simp] theorem putMeter_host (i : RegionNo) (m : Meter) (s : State) : (putMeter i m s).host = s.host := rfl
@[simp] theorem putMeter_responses (i : RegionNo) (m : Meter) (s : State) : (putMeter i m s).responses = s.responses := rfl
@[simp] theorem putMeter_capture (i : RegionNo) (m : Meter) (s : State) : (putMeter i m s).capture = s.capture := rfl
@[simp] theorem putMeter_index (i : RegionNo) (m : Meter) (s : State) : (putMeter i m s).index = s.index := rfl
@[simp] theorem putMeter_queue (i : RegionNo) (m : Meter) (s : State) : (putMeter i m s).queue = s.queue := rfl
@[simp] theorem putMeter_port (i : RegionNo) (m : Meter) (s : State) : (putMeter i m s).port = s.port := rfl
@[simp] theorem putMeter_arbiter (i : RegionNo) (m : Meter) (s : State) : (putMeter i m s).arbiter = s.arbiter := rfl
@[simp] theorem putMeter_ctl (i : RegionNo) (m : Meter) (s : State) : (putMeter i m s).ctl = s.ctl := rfl
@[simp] theorem putMeter_restore (i : RegionNo) (m : Meter) (s : State) : (putMeter i m s).restore = s.restore := rfl
@[simp] theorem putMeter_cfg (i : RegionNo) (m : Meter) (s : State) : (putMeter i m s).cfg = s.cfg := rfl
@[simp] theorem putMeter_active (i : RegionNo) (m : Meter) (s : State) : (putMeter i m s).active = s.active := rfl
@[simp] theorem putMeter_staged (i : RegionNo) (m : Meter) (s : State) : (putMeter i m s).staged = s.staged := rfl
@[simp] theorem putMeter_meters (i : RegionNo) (m : Meter) (s : State) : (putMeter i m s).meters = s.meters.set i.val m i.isLt := rfl
@[simp] theorem putMeter_window (i : RegionNo) (m : Meter) (s : State) : (putMeter i m s).window = s.window := rfl
@[simp] theorem putMeter_report (i : RegionNo) (m : Meter) (s : State) : (putMeter i m s).report = s.report := rfl
@[simp] theorem putMeter_events (i : RegionNo) (m : Meter) (s : State) : (putMeter i m s).events = s.events := rfl
@[simp] theorem putMeter_supply (i : RegionNo) (m : Meter) (s : State) : (putMeter i m s).supply = s.supply := rfl
@[simp] theorem putMeter_settle (i : RegionNo) (m : Meter) (s : State) : (putMeter i m s).settle = s.settle := rfl
@[simp] theorem putMeter_rst (i : RegionNo) (m : Meter) (s : State) : (putMeter i m s).rst = s.rst := rfl
@[simp] theorem putMeter_resetInForce (i : RegionNo) (m : Meter) (s : State) : (putMeter i m s).resetInForce = s.resetInForce := rfl
@[simp] theorem putMeter_mark (i : RegionNo) (m : Meter) (s : State) : (putMeter i m s).mark = s.mark := rfl
@[simp] theorem putMeter_link (i : RegionNo) (m : Meter) (s : State) : (putMeter i m s).link = s.link := rfl
@[simp] theorem putMeter_uptime (i : RegionNo) (m : Meter) (s : State) : (putMeter i m s).uptime = s.uptime := rfl
@[simp] theorem putMeter_free (i : RegionNo) (m : Meter) (s : State) : (putMeter i m s).free = s.free := rfl
@[simp] theorem putMeter_pending (i : RegionNo) (m : Meter) (s : State) : (putMeter i m s).pending = s.pending := rfl

/-! The grant is released (R96). -/

@[simp] theorem releasePort_retention (s : State) : (releasePort s).retention = s.retention := rfl
@[simp] theorem releasePort_writes (s : State) : (releasePort s).writes = s.writes := rfl
@[simp] theorem releasePort_writeBegun (s : State) : (releasePort s).writeBegun = s.writeBegun := rfl
@[simp] theorem releasePort_host (s : State) : (releasePort s).host = s.host := rfl
@[simp] theorem releasePort_responses (s : State) : (releasePort s).responses = s.responses := rfl
@[simp] theorem releasePort_capture (s : State) : (releasePort s).capture = s.capture := rfl
@[simp] theorem releasePort_index (s : State) : (releasePort s).index = s.index := rfl
@[simp] theorem releasePort_queue (s : State) : (releasePort s).queue = s.queue := rfl
@[simp] theorem releasePort_port (s : State) : (releasePort s).port = s.port := rfl
@[simp] theorem releasePort_arbiter (s : State) : (releasePort s).arbiter = { s.arbiter with grant := none } := rfl
@[simp] theorem releasePort_ctl (s : State) : (releasePort s).ctl = s.ctl := rfl
@[simp] theorem releasePort_restore (s : State) : (releasePort s).restore = s.restore := rfl
@[simp] theorem releasePort_cfg (s : State) : (releasePort s).cfg = s.cfg := rfl
@[simp] theorem releasePort_active (s : State) : (releasePort s).active = s.active := rfl
@[simp] theorem releasePort_staged (s : State) : (releasePort s).staged = s.staged := rfl
@[simp] theorem releasePort_meters (s : State) : (releasePort s).meters = s.meters := rfl
@[simp] theorem releasePort_window (s : State) : (releasePort s).window = s.window := rfl
@[simp] theorem releasePort_report (s : State) : (releasePort s).report = s.report := rfl
@[simp] theorem releasePort_events (s : State) : (releasePort s).events = s.events := rfl
@[simp] theorem releasePort_supply (s : State) : (releasePort s).supply = s.supply := rfl
@[simp] theorem releasePort_settle (s : State) : (releasePort s).settle = s.settle := rfl
@[simp] theorem releasePort_rst (s : State) : (releasePort s).rst = s.rst := rfl
@[simp] theorem releasePort_resetInForce (s : State) : (releasePort s).resetInForce = s.resetInForce := rfl
@[simp] theorem releasePort_mark (s : State) : (releasePort s).mark = s.mark := rfl
@[simp] theorem releasePort_link (s : State) : (releasePort s).link = s.link := rfl
@[simp] theorem releasePort_uptime (s : State) : (releasePort s).uptime = s.uptime := rfl
@[simp] theorem releasePort_free (s : State) : (releasePort s).free = s.free := rfl
@[simp] theorem releasePort_pending (s : State) : (releasePort s).pending = s.pending := rfl

/-! The event unit takes flags and enables (R151). -/

@[simp] theorem withEvents_retention (flags enables : BitVec 12) (s : State) : (withEvents flags enables s).retention = s.retention := rfl
@[simp] theorem withEvents_writes (flags enables : BitVec 12) (s : State) : (withEvents flags enables s).writes = s.writes := rfl
@[simp] theorem withEvents_writeBegun (flags enables : BitVec 12) (s : State) : (withEvents flags enables s).writeBegun = s.writeBegun :=
    rfl
@[simp] theorem withEvents_host (flags enables : BitVec 12) (s : State) : (withEvents flags enables s).host = s.host := rfl
@[simp] theorem withEvents_responses (flags enables : BitVec 12) (s : State) : (withEvents flags enables s).responses = s.responses := rfl
@[simp] theorem withEvents_capture (flags enables : BitVec 12) (s : State) : (withEvents flags enables s).capture = s.capture := rfl
@[simp] theorem withEvents_index (flags enables : BitVec 12) (s : State) : (withEvents flags enables s).index = s.index := rfl
@[simp] theorem withEvents_queue (flags enables : BitVec 12) (s : State) : (withEvents flags enables s).queue = s.queue := rfl
@[simp] theorem withEvents_port (flags enables : BitVec 12) (s : State) : (withEvents flags enables s).port = s.port := rfl
@[simp] theorem withEvents_arbiter (flags enables : BitVec 12) (s : State) : (withEvents flags enables s).arbiter = s.arbiter := rfl
@[simp] theorem withEvents_ctl (flags enables : BitVec 12) (s : State) : (withEvents flags enables s).ctl = s.ctl := rfl
@[simp] theorem withEvents_restore (flags enables : BitVec 12) (s : State) : (withEvents flags enables s).restore = s.restore := rfl
@[simp] theorem withEvents_cfg (flags enables : BitVec 12) (s : State) : (withEvents flags enables s).cfg = s.cfg := rfl
@[simp] theorem withEvents_active (flags enables : BitVec 12) (s : State) : (withEvents flags enables s).active = s.active := rfl
@[simp] theorem withEvents_staged (flags enables : BitVec 12) (s : State) : (withEvents flags enables s).staged = s.staged := rfl
@[simp] theorem withEvents_meters (flags enables : BitVec 12) (s : State) : (withEvents flags enables s).meters = s.meters := rfl
@[simp] theorem withEvents_window (flags enables : BitVec 12) (s : State) : (withEvents flags enables s).window = s.window := rfl
@[simp] theorem withEvents_report (flags enables : BitVec 12) (s : State) : (withEvents flags enables s).report = s.report := rfl
@[simp] theorem withEvents_events (flags enables : BitVec 12) (s : State) :
    (withEvents flags enables s).events = { flags := flags, enables := enables, alert := alertDrive (isRunning s) flags enables } := rfl
@[simp] theorem withEvents_supply (flags enables : BitVec 12) (s : State) : (withEvents flags enables s).supply = s.supply := rfl
@[simp] theorem withEvents_settle (flags enables : BitVec 12) (s : State) : (withEvents flags enables s).settle = s.settle := rfl
@[simp] theorem withEvents_rst (flags enables : BitVec 12) (s : State) : (withEvents flags enables s).rst = s.rst := rfl
@[simp] theorem withEvents_resetInForce (flags enables : BitVec 12) (s : State) :
    (withEvents flags enables s).resetInForce = s.resetInForce := rfl
@[simp] theorem withEvents_mark (flags enables : BitVec 12) (s : State) : (withEvents flags enables s).mark = s.mark := rfl
@[simp] theorem withEvents_link (flags enables : BitVec 12) (s : State) : (withEvents flags enables s).link = s.link := rfl
@[simp] theorem withEvents_uptime (flags enables : BitVec 12) (s : State) : (withEvents flags enables s).uptime = s.uptime := rfl
@[simp] theorem withEvents_free (flags enables : BitVec 12) (s : State) : (withEvents flags enables s).free = s.free := rfl
@[simp] theorem withEvents_pending (flags enables : BitVec 12) (s : State) : (withEvents flags enables s).pending = s.pending := rfl

/-! A cause sets its flag (R144). -/

@[simp] theorem setEvent_retention (e : Event) (s : State) : (setEvent e s).retention = s.retention := rfl
@[simp] theorem setEvent_writes (e : Event) (s : State) : (setEvent e s).writes = s.writes := rfl
@[simp] theorem setEvent_writeBegun (e : Event) (s : State) : (setEvent e s).writeBegun = s.writeBegun := rfl
@[simp] theorem setEvent_host (e : Event) (s : State) : (setEvent e s).host = s.host := rfl
@[simp] theorem setEvent_responses (e : Event) (s : State) : (setEvent e s).responses = s.responses := rfl
@[simp] theorem setEvent_capture (e : Event) (s : State) : (setEvent e s).capture = s.capture := rfl
@[simp] theorem setEvent_index (e : Event) (s : State) : (setEvent e s).index = s.index := rfl
@[simp] theorem setEvent_queue (e : Event) (s : State) : (setEvent e s).queue = s.queue := rfl
@[simp] theorem setEvent_port (e : Event) (s : State) : (setEvent e s).port = s.port := rfl
@[simp] theorem setEvent_arbiter (e : Event) (s : State) : (setEvent e s).arbiter = s.arbiter := rfl
@[simp] theorem setEvent_ctl (e : Event) (s : State) : (setEvent e s).ctl = s.ctl := rfl
@[simp] theorem setEvent_restore (e : Event) (s : State) : (setEvent e s).restore = s.restore := rfl
@[simp] theorem setEvent_cfg (e : Event) (s : State) : (setEvent e s).cfg = s.cfg := rfl
@[simp] theorem setEvent_active (e : Event) (s : State) : (setEvent e s).active = s.active := rfl
@[simp] theorem setEvent_staged (e : Event) (s : State) : (setEvent e s).staged = s.staged := rfl
@[simp] theorem setEvent_meters (e : Event) (s : State) : (setEvent e s).meters = s.meters := rfl
@[simp] theorem setEvent_window (e : Event) (s : State) : (setEvent e s).window = s.window := rfl
@[simp] theorem setEvent_report (e : Event) (s : State) : (setEvent e s).report = s.report := rfl
@[simp] theorem setEvent_supply (e : Event) (s : State) : (setEvent e s).supply = s.supply := rfl
@[simp] theorem setEvent_settle (e : Event) (s : State) : (setEvent e s).settle = s.settle := rfl
@[simp] theorem setEvent_rst (e : Event) (s : State) : (setEvent e s).rst = s.rst := rfl
@[simp] theorem setEvent_resetInForce (e : Event) (s : State) : (setEvent e s).resetInForce = s.resetInForce := rfl
@[simp] theorem setEvent_mark (e : Event) (s : State) : (setEvent e s).mark = s.mark := rfl
@[simp] theorem setEvent_link (e : Event) (s : State) : (setEvent e s).link = s.link := rfl
@[simp] theorem setEvent_uptime (e : Event) (s : State) : (setEvent e s).uptime = s.uptime := rfl
@[simp] theorem setEvent_free (e : Event) (s : State) : (setEvent e s).free = s.free := rfl
@[simp] theorem setEvent_pending (e : Event) (s : State) : (setEvent e s).pending = s.pending := rfl

/-! The request in progress moves (R72). -/

@[simp] theorem moveHost_retention (job : HostJob) (stage : Stage) (region : Option RegionNo) (s : State) :
    (moveHost job stage region s).retention = s.retention := rfl
@[simp] theorem moveHost_writes (job : HostJob) (stage : Stage) (region : Option RegionNo) (s : State) :
    (moveHost job stage region s).writes = s.writes := rfl
@[simp] theorem moveHost_writeBegun (job : HostJob) (stage : Stage) (region : Option RegionNo) (s : State) :
    (moveHost job stage region s).writeBegun = s.writeBegun := rfl
@[simp] theorem moveHost_host (job : HostJob) (stage : Stage) (region : Option RegionNo) (s : State) :
    (moveHost job stage region s).host = some { job with stage := stage, region := region } := rfl
@[simp] theorem moveHost_responses (job : HostJob) (stage : Stage) (region : Option RegionNo) (s : State) :
    (moveHost job stage region s).responses = s.responses := rfl
@[simp] theorem moveHost_capture (job : HostJob) (stage : Stage) (region : Option RegionNo) (s : State) :
    (moveHost job stage region s).capture = s.capture := rfl
@[simp] theorem moveHost_index (job : HostJob) (stage : Stage) (region : Option RegionNo) (s : State) :
    (moveHost job stage region s).index = s.index := rfl
@[simp] theorem moveHost_queue (job : HostJob) (stage : Stage) (region : Option RegionNo) (s : State) :
    (moveHost job stage region s).queue = s.queue := rfl
@[simp] theorem moveHost_port (job : HostJob) (stage : Stage) (region : Option RegionNo) (s : State) :
    (moveHost job stage region s).port = s.port := rfl
@[simp] theorem moveHost_arbiter (job : HostJob) (stage : Stage) (region : Option RegionNo) (s : State) :
    (moveHost job stage region s).arbiter = s.arbiter := rfl
@[simp] theorem moveHost_ctl (job : HostJob) (stage : Stage) (region : Option RegionNo) (s : State) :
    (moveHost job stage region s).ctl = s.ctl := rfl
@[simp] theorem moveHost_restore (job : HostJob) (stage : Stage) (region : Option RegionNo) (s : State) :
    (moveHost job stage region s).restore = s.restore := rfl
@[simp] theorem moveHost_cfg (job : HostJob) (stage : Stage) (region : Option RegionNo) (s : State) :
    (moveHost job stage region s).cfg = s.cfg := rfl
@[simp] theorem moveHost_active (job : HostJob) (stage : Stage) (region : Option RegionNo) (s : State) :
    (moveHost job stage region s).active = s.active := rfl
@[simp] theorem moveHost_staged (job : HostJob) (stage : Stage) (region : Option RegionNo) (s : State) :
    (moveHost job stage region s).staged = s.staged := rfl
@[simp] theorem moveHost_meters (job : HostJob) (stage : Stage) (region : Option RegionNo) (s : State) :
    (moveHost job stage region s).meters = s.meters := rfl
@[simp] theorem moveHost_window (job : HostJob) (stage : Stage) (region : Option RegionNo) (s : State) :
    (moveHost job stage region s).window = s.window := rfl
@[simp] theorem moveHost_report (job : HostJob) (stage : Stage) (region : Option RegionNo) (s : State) :
    (moveHost job stage region s).report = s.report := rfl
@[simp] theorem moveHost_events (job : HostJob) (stage : Stage) (region : Option RegionNo) (s : State) :
    (moveHost job stage region s).events = s.events := rfl
@[simp] theorem moveHost_supply (job : HostJob) (stage : Stage) (region : Option RegionNo) (s : State) :
    (moveHost job stage region s).supply = s.supply := rfl
@[simp] theorem moveHost_settle (job : HostJob) (stage : Stage) (region : Option RegionNo) (s : State) :
    (moveHost job stage region s).settle = s.settle := rfl
@[simp] theorem moveHost_rst (job : HostJob) (stage : Stage) (region : Option RegionNo) (s : State) :
    (moveHost job stage region s).rst = s.rst := rfl
@[simp] theorem moveHost_resetInForce (job : HostJob) (stage : Stage) (region : Option RegionNo) (s : State) :
    (moveHost job stage region s).resetInForce = s.resetInForce := rfl
@[simp] theorem moveHost_mark (job : HostJob) (stage : Stage) (region : Option RegionNo) (s : State) :
    (moveHost job stage region s).mark = s.mark := rfl
@[simp] theorem moveHost_link (job : HostJob) (stage : Stage) (region : Option RegionNo) (s : State) :
    (moveHost job stage region s).link = s.link := rfl
@[simp] theorem moveHost_uptime (job : HostJob) (stage : Stage) (region : Option RegionNo) (s : State) :
    (moveHost job stage region s).uptime = s.uptime := rfl
@[simp] theorem moveHost_free (job : HostJob) (stage : Stage) (region : Option RegionNo) (s : State) :
    (moveHost job stage region s).free = s.free := rfl
@[simp] theorem moveHost_pending (job : HostJob) (stage : Stage) (region : Option RegionNo) (s : State) :
    (moveHost job stage region s).pending = s.pending := rfl

/-! Reading the running state through the updates that leave the supply and the reset alone. -/

@[simp] theorem store_isRunning (f : Retention → Retention) (s : State) : isRunning (store f s) = isRunning s := rfl
@[simp] theorem askWrite_isRunning (w : RetentionWrite) (s : State) : isRunning (askWrite w s) = isRunning s := rfl
@[simp] theorem endWrite_isRunning (s : State) : isRunning (endWrite s) = isRunning s := rfl
@[simp] theorem indexGain_isRunning (line : Line) (k : SlotNo) (s : State) : isRunning (indexGain line k s) = isRunning s := rfl
@[simp] theorem indexLose_isRunning (k : SlotNo) (s : State) : isRunning (indexLose k s) = isRunning s := rfl
@[simp] theorem putMeter_isRunning (i : RegionNo) (m : Meter) (s : State) : isRunning (putMeter i m s) = isRunning s := rfl
@[simp] theorem releasePort_isRunning (s : State) : isRunning (releasePort s) = isRunning s := rfl
@[simp] theorem withEvents_isRunning (flags enables : BitVec 12) (s : State) : isRunning (withEvents flags enables s) = isRunning s := rfl
@[simp] theorem setEvent_isRunning (e : Event) (s : State) : isRunning (setEvent e s) = isRunning s := rfl
@[simp] theorem moveHost_isRunning (job : HostJob) (stage : Stage) (region : Option RegionNo) (s : State) :
    isRunning (moveHost job stage region s) = isRunning s := rfl

end Sys2Proof.Machine
end

