-- ==== Sys2Proof/Tests/Slice0.lean ====
section
/-! SUPPORT. Tests of the model: the well-formedness check, one step of each command against the manual's own words or worked
sequences (the source is named at each), and for each statement with hypotheses states that meet them. -/

namespace Sys2Proof.Tests

open Sys2Proof.Machine

/-! ### Well-formedness and decoding -/

/-- R174: the code 0x01 names READ_STATUS, so it is no unknown code. -/
theorem test_wf_refuses_known_code : (Instr.unknownCode 0x01).wf = false := by decide

/-- Section 11.2 lists no code 0x06. -/
theorem test_wf_accepts_unknown_code : (Instr.unknownCode 0x06).wf = true := by decide

/-- No row of the table has bits. -/
theorem test_table_word_spells_none : decodeTableWord 8 1 = none := rfl

/-- Section 11.2: STAGE_REGION 0, GUARDED, lines 512 to 1,023, metered, write limit 8,192, qualify 2, ROLLBACK (12.1), byte by byte. -/
theorem test_decode_stage_region :
    parseFrame 0x10 [0x00, 0x02, 0x00, 0x02, 0x00, 0x00, 0x03, 0xFF, 0x01, 0x00, 0x20, 0x00, 0x02, 0x01] =
      some (.stageRegion 0 2 512 1023 1 8192 2 1) := by decide

/-- Section 11.2: SET_CONFIG with window 4, hold 0, L 192 (carried as 191) and auto-commit 1,000 ms. -/
theorem test_decode_set_config : parseFrame 0x20 [0x04, 0x00, 0xBF, 0x03, 0xE8] = some (.setConfig 4 0 191 1000) := by decide

/-- A frame that is one byte short is not yet a command (R169). -/
theorem test_decode_short_frame : parseFrame 0x22 [0x00] = none := by decide

/-! ### The states that the tests start from -/

/-- The state that a command leaves. -/
def after (c : Instr) (s : State) : State :=
  match exec c s with
  | .next t => t
  | .fault _ => s
  | .refused _ => s

/-- Region 0 of 12.1: GUARDED, lines 512 to 1,023, metered, write limit 8,192, qualify 2, trip action ROLLBACK. -/
def region0 : Region :=
  { kind := .GUARDED, base := 512, limit := 1023, metered := true, writeLimit := 8192, qualify := 2, action := .ROLLBACK }

/-- Region 1 of 12.1: READONLY, lines 0 to 511, unmetered. -/
def region1 : Region :=
  { kind := .READONLY, base := 0, limit := 511, metered := false, writeLimit := 1, qualify := 1, action := .REFUSE }

/-- The part at the end of 12.1: OPEN, header EMPTY, E 1, regions 0 and 1 programmed. -/
def opened : State :=
  { State.reset with
    retention := { initialStore with header := { initialStore.header with epoch := 1 } }
    active := (State.reset.active.set 0 region0).set 1 region1
    events := { flags := 0, enables := 0, alert := .RELEASED } }

/-- A word whose lanes are 0x11, 0x22, 0x33, 0x44. -/
def word1 : Lanes := { lane0 := 0x11, lane1 := 0x22, lane2 := 0x33, lane3 := 0x44 }

/-- A posted write of 4 bytes to line 512, class GUARDED. -/
def entry512 : QueueEntry :=
  { addr := 0x004000, size := .four, data := word1.toList, cls := .GUARDED, region := some 0, epochTag := 2, inFlight := false }

/-- A frame in progress whose input can still become any frame: nothing received. -/
def linkOpen : Link := present { idleLink with state := .RECEIVING }

/-- A state with a frame in progress that has received nothing. -/
def framed (s : State) : State := { s with link := linkOpen }

/-- A WRITE in progress in CAPTURING, to line 512. -/
def capturingJob : HostJob := { op := .WRITE word1, addr := 0x004000, size := .four, tag := 5, stage := .CAPTURING, region := some 0 }

/-- A capture of line 512 for that write, at a stage, with words received. -/
def captureAt (stage : CaptureStage) (words : List Lanes) (failure : Option Cause) : CaptureJob :=
  { stage := stage, slot := 0, line := 512, region := 0, addr := 0x004000, size := .four, data := word1.toList, words := words
    failure := failure }

/-- A journal of one slot for line 512, in a slot state. -/
def oneSlot (header : HeaderState) (slot : SlotState) : Retention :=
  { initialStore with
    header := { state := header, epoch := 1, boot := 0, count := 1, nextSeq := 1
                cause := if header = .UNWINDING then some .ABORT else none }
    slots := initialStore.slots.set 0
      { state := slot, line := 512, region := 0, seq := 0
        image := if slot = .COMPLETE then some (Vector.replicate 8 word1) else none } }

/-- A part that captures line 512. -/
def capturing (stage : CaptureStage) (words : List Lanes) (failure : Option Cause) : State :=
  { opened with retention := oneSlot .OPEN .FILLING, index := [(512, 0)], host := some capturingJob
                capture := some (captureAt stage words failure) }

/-- A part that unwinds a journal of one slot. -/
def unwinding (slot : SlotState) (engine : RestoreState) (ws : List RetentionWrite) : State :=
  { opened with
    retention := oneSlot .UNWINDING slot
    writes := ws
    ctl := { opened.ctl with state := .ROLLBACK }
    restore := { state := engine, slot := some 0, word := 0, attempt := 1, restored := 0 } }

/-- An access at the memory port. -/
def accessOf (kind : RequestKind) (data : List Byte) : Access :=
  { kind := kind, addr := 0x004000, size := .four, data := data, tag := 3 }

/-- The port with that access in flight. -/
def portWith (kind : RequestKind) (data : List Byte) : MemoryPort :=
  { inFlight := some (accessOf kind data), timer := 200, nextTag := 4, owed := Vector.replicate 16 false }

/-! ### One step of each command -/

/-- 12.2: the write to 0x004000 is captured; nothing is queued and the allocation write is asked for. -/
theorem test_hostRequest_capture :
    (after (.hostRequest (.WRITE word1) 0x004000 .four 5) opened).writes = [.ALLOCATION] ∧
    (after (.hostRequest (.WRITE word1) 0x004000 .four 5) opened).queue = [] := by decide

/-- R71: a 2-byte write at 0x00C002 carries lanes 2 and 3. Line 1,536 has no region, so it is PASS. -/
theorem test_hostRequest_lanes :
    (after (.hostRequest (.WRITE word1) 0x00C002 .two 5) opened).queue.map (fun e => (e.data, e.cls)) = [([0x33, 0x44], .PASS)] :=
  by decide

/-- R75, R84: memory's answer to a host read reaches the host with the host's tag. -/
theorem test_memoryResponse :
    (after (.memoryResponse 3 (.OK word1))
      { opened with
        port := portWith .READ [], arbiter := { grant := some .HOST_READ, hostCount := 0 }
        host := some { op := .READ, addr := 0x004000, size := .four, tag := 5, stage := .AT_MEMORY, region := some 0 } }).responses =
      [{ status := .OK, data := [0x11, 0x22, 0x33, 0x44], tag := 5, reason := none }] := by decide

/-- R75: at the limit the access is over and its tag is owed. -/
theorem test_memoryResponseLimit :
    let t := after .memoryResponseLimit
      { opened with port := portWith .WRITE word1.toList, arbiter := { grant := some .QUEUE_HEAD, hostCount := 0 }
                    queue := [{ entry512 with inFlight := true }] }
    t.port.inFlight = none ∧ t.port.owed[3] = true ∧ t.ctl.faulted = true := by decide

/-- R75, response first: the limit finds the port no longer waiting on that access; the queue head's access, issued since, stands. -/
theorem test_memoryResponseLimit_late :
    let t := after (.memoryResponse 3 (.OK word1))
      { opened with
        port := portWith .READ [], arbiter := { grant := some .HOST_READ, hostCount := 0 }, queue := [entry512]
        host := some { op := .READ, addr := 0x004000, size := .four, tag := 5, stage := .AT_MEMORY, region := some 0 } }
    t.port.inFlight.isSome = true ∧ (after .memoryResponseLimit t).port = t.port := by decide

/-- R89: the deadline refuses with HOLD_TIMEOUT. -/
theorem test_holdDeadline :
    ((after .holdDeadline
      { opened with ctl := { opened.ctl with state := .DRAINING }
                    host := some { capturingJob with stage := .HELD (some 0) } }).report.log.map (·.reason)) = [.HOLD_TIMEOUT] :=
  by decide

/-- 12.2: the allocation takes slot 0, sequence 0; count and next sequence become 1; the engine asks for the port and reads word 0. -/
theorem test_allocationWriteEnd :
    let t := after .allocationWriteEnd
      { opened with writes := [.ALLOCATION], host := some capturingJob, capture := some (captureAt .ALLOCATING [] none) }
    t.retention.header.count = 1 ∧ t.retention.slots[0].line = 512 ∧ t.port.inFlight.map (·.addr) = some 0x004000 := by decide

/-- 12.2: after the completion write the write is queued and region 0 has counted 4 bytes. -/
theorem test_completionWriteEnd :
    let t := after .completionWriteEnd { capturing .READING (List.replicate 8 word1) none with writes := [.COMPLETION] }
    t.queue.length = 1 ∧ (t.meters[0]).count = 4 ∧ t.retention.slots[0].state = .COMPLETE := by decide

/-- R12, R19: the release write gives the slot back and the write is refused MEMORY. -/
theorem test_releaseWriteEnd :
    let t := after .releaseWriteEnd { capturing .READING [] (some .ERR) with writes := [.RELEASE] }
    t.retention.header.count = 0 ∧ t.report.log.map (·.reason) = [.MEMORY] ∧ t.report.fault.map (·.source) = some .CAPTURE_READ :=
  by decide

set_option maxRecDepth 8000 in
/-- 12.2: the seal advances E from 1 to 2 with the entries counted. -/
theorem test_sealWriteEnd :
    let t := after .sealWriteEnd
      { opened with retention := oneSlot .OPEN .COMPLETE, writes := [.SEAL], ctl := { opened.ctl with state := .DRAINING } }
    t.retention.header.epoch = 2 ∧ t.retention.history.map (fun o => (o.epoch, o.entries)) = [(2, 1)] ∧ t.writes = [.CLEAR] := by decide

/-- 12.2: the clear frees the journal, sets COMMITTED and returns to OPEN. -/
theorem test_clearWriteEnd :
    let t := after .clearWriteEnd
      { opened with retention := oneSlot .SEALED .COMPLETE, writes := [.CLEAR], ctl := { opened.ctl with state := .DRAINING } }
    t.retention.header.state = .EMPTY ∧ t.events.flags = 0b1 ∧ t.ctl.state = .OPEN := by decide

set_option maxRecDepth 8000 in
/-- R57, R58, R59: after the mark the newest slot's word 0 is written back. -/
theorem test_unwindingMarkEnd :
    let t := after .unwindingMarkEnd
      { opened with
        retention := oneSlot .OPEN .COMPLETE, writes := [.MARK], ctl := { opened.ctl with state := .ROLLBACK, cause := some .ABORT } }
    t.retention.header.state = .UNWINDING ∧ t.port.inFlight.map (fun a => (a.kind, a.addr)) = some (.WRITE, 0x004000) := by decide

set_option maxRecDepth 8000 in
/-- R15, R61: the last retire ends the unwind with outcome ABORTED and ROLLED_BACK. -/
theorem test_retireWriteEnd :
    let t := after .retireWriteEnd (unwinding .COMPLETE .RETIRING [.RETIRE])
    t.retention.header.state = .EMPTY ∧ t.retention.history.map (·.kind) = [.ABORTED] ∧ t.events.flags = 0b10 := by decide

/-- R15: the finish ends the unwind of an empty journal. -/
theorem test_finishWriteEnd :
    let t := after .finishWriteEnd
      { unwinding .FREE .RETIRING [.FINISH] with
        retention := { initialStore with header := { initialStore.header with state := .UNWINDING, cause := some .FAULT } } }
    t.ctl.state = .OPEN ∧ t.retention.history.map (·.kind) = [.FAULTED] := by decide

/-- R70: the discard counts the entries before the write and sets no flag. -/
theorem test_discardWriteEnd :
    let t := after .discardWriteEnd { unwinding .COMPLETE .HALTED [.DISCARD] with ctl := { opened.ctl with state := .STALLED } }
    t.retention.history.map (fun o => (o.kind, o.entries)) = [(.DISCARDED, 1)] ∧ t.events.flags = 0 ∧ t.ctl.state = .OPEN := by decide

/-- R31, R36: MARK's request in OPEN enters DRAINING; with nothing queued the seal is asked for. -/
theorem test_markRequest :
    let t := after .markRequest { opened with mark := .QUALIFIED }
    t.ctl.state = .DRAINING ∧ t.writes = [.SEAL] := by decide

/-- R33: the timer's request with work queued only enters DRAINING. -/
theorem test_autoCommitExpiry :
    let t := after .autoCommitExpiry
      { opened with ctl := { opened.ctl with autoTimer := some 0 }, queue := [entry512], port := portWith .READ [] }
    t.ctl.state = .DRAINING ∧ t.writes = [] := by decide

/-- R35: SET_CONFIG with a new interval first, then the expiry: the timer has started again and no commit request arrives. -/
theorem test_autoCommitExpiry_after_setConfig :
    let t := after .autoCommitExpiry (after (.setConfig 4 0 191 1000) (framed
        { opened with ctl := { opened.ctl with autoTimer := some 0 } }))
    t.ctl.state = .OPEN ∧ t.ctl.autoTimer = some 1000000 := by decide

/-- The part with its window of 16 ms over. -/
def windowOver : State := { opened with window := { length := 16, elapsed := 16000 } }

/-- R118, R120, R121: the second strike of qualify 2 trips region 0 and orders the rollback. -/
theorem test_windowBoundary :
    let t := after .windowBoundary
      { windowOver with meters := opened.meters.set 0 { count := 8193, latch := 0, strikes := 1, trip := .CLEAR } }
    t.meters[0] = { count := 0, latch := 8193, strikes := 0, trip := .TRIPPED } ∧ t.ctl.state = .ROLLBACK ∧ t.events.flags = 0b1000000 :=
  by decide

/-- R118: a count equal to the write limit is no strike. -/
theorem test_windowBoundary_at_limit :
    (after .windowBoundary
      { windowOver with meters := opened.meters.set 0 { count := 8192, latch := 0, strikes := 1, trip := .CLEAR } }).meters[0] =
      { count := 0, latch := 8192, strikes := 0, trip := .CLEAR } := by decide

/-- R73, R76, R157: entry to FAILING answers the request ERR and leaves the tag of the dropped access owed. -/
theorem test_vddFail :
    let t := after .vddFail { opened with port := portWith .READ [], host := some capturingJob }
    t.supply = .FAILING ∧ t.responses.map (·.reason) = [some .POWER] ∧ t.port.owed[3] = true := by decide

/-- R21: cut off with the completion written and the write not yet queued: the slot is COMPLETE, the host is answered ERR POWER. -/
theorem test_vddFail_begun :
    let t := enterFailing 1 { capturing .READING (List.replicate 8 word1) none with writes := [.COMPLETION] }
    t.retention.slots[0].state = .COMPLETE ∧ t.queue = [] ∧ t.responses.map (fun r => (r.status, r.reason)) = [(.ERR, some .POWER)] :=
  by decide

/-- R1, R20: with the allocation write ended, the release write of the abandoned capture behind it has begun: a stop makes it, and the slot
is FREE again. -/
theorem test_vddFail_release_begun :
    let s := after .allocationWriteEnd
      { capturing .ABANDONING [] none with retention := initialStore, writes := [.ALLOCATION, .RELEASE], index := [] }
    s.retention.slots[0].state = .FILLING ∧ s.writes = [.RELEASE] ∧ s.writeBegun = true ∧
      (enterFailing 1 s).retention.slots[0].state = .FREE := by decide

/-- R158: the tables, the enables and the index are lost in BACKUP. -/
theorem test_vddSwitchOver_loses :
    let t := after (.vddSwitchOver false)
      { opened with supply := .FAILING, index := [(0, 0)], events := { opened.events with enables := 0x00FF } }
    t.index = [] ∧ t.events.enables = 0 ∧ t.active[0].kind = .OFF := by decide

/-- R154: from FAILING a fall below 2.2 V leads to BACKUP. -/
theorem test_vddSwitchOver : (after (.vddSwitchOver false) { opened with supply := .FAILING }).supply = .BACKUP := by decide

/-- R154: the settle timer starts from 0. -/
theorem test_vddGood : (after .vddGood { opened with supply := .BACKUP }).settle = .RUNNING 0 := by decide

/-- R161: with the latch clear the initialisation write is asked for. -/
theorem test_settleTimerExpiry :
    (after .settleTimerExpiry
      { opened with supply := .SETTLING, settle := .RUNNING 20000, retention := { initialStore with latch := false } }).writes =
      [.INITIALISATION] := by decide

/-- R156: VBK below its minimum in BACKUP clears the latch. -/
theorem test_vbkLow : (after .vbkLow { opened with supply := .BACKUP }).retention.latch = false := rfl

/-- R155: at first power the supply is BACKUP and the latch clear. -/
theorem test_firstPower : (after .firstPower opened).retention.latch = false ∧ (after .firstPower opened).supply = .BACKUP := ⟨rfl, rfl⟩

/-- R159: the assertion stops the part; the supply state stays RUN. -/
theorem test_rstAssert :
    let t := after .rstAssert { opened with rst := .QUALIFIED }
    t.resetInForce = true ∧ t.supply = .RUN ∧ t.ctl.state = .OFF := by decide

/-- R162: cut off after the write of step 3 and before step 5, B has risen and the part has not started. -/
theorem test_rstAssert_begun :
    let t := stopPart 1
      { opened with supply := .SETTLING, settle := .EXPIRED, rst := .ASSERTED, resetInForce := true, writes := [.BOOT_COUNT]
                    ctl := { opened.ctl with state := .OFF } }
    t.retention.header.boot = 1 ∧ t.ctl.state = .OFF ∧ t.writes = [] := by decide

/-- R160, R161: the release begins the restart, with the latch set by the boot count write. -/
theorem test_rstRelease :
    (after .rstRelease { opened with rst := .ASSERTED, resetInForce := true }).writes = [.BOOT_COUNT] := by decide

/-- R2, R48: a warm restart that finds the header OPEN raises B and asks for the mark in RECOVERY. -/
theorem test_bootCountWriteEnd :
    let t := after .bootCountWriteEnd
      { opened with retention := oneSlot .OPEN .COMPLETE, resetInForce := true, writes := [.BOOT_COUNT]
                    ctl := { opened.ctl with state := .OFF } }
    t.retention.header.boot = 1 ∧ t.ctl.state = .RECOVERY ∧ t.writes = [.MARK] := by decide

/-- 12.1: after the initialisation write RETENTION_LOST and RESTARTED are set and the state is OPEN. -/
theorem test_initialisationWriteEnd :
    let t := after .initialisationWriteEnd
      { State.reset with supply := .SETTLING, settle := .EXPIRED, writes := [.INITIALISATION], events := { State.reset.events with flags := 0 }
                         ctl := { State.reset.ctl with state := .OFF } }
    t.events.flags = 0b1100 ∧ t.ctl.state = .OPEN ∧ t.supply = .RUN := by decide

/-- R168: a fall of MCS# begins a frame. -/
theorem test_mcsFall : (after .mcsFall opened).link.state = .RECEIVING := by decide

/-- R172: a frame cut off before its take point sets LINKERR. -/
theorem test_mcsRise : (after .mcsRise (framed opened)).events.flags = 0b100000000000 := by decide

/-- R177: after 12.1 the status bytes are OPEN, EMPTY, E 1, and zeros. -/
theorem test_readStatus :
    (after .readStatus (framed opened)).link.answer = some ([0, 0, 0, 0, 0, 0, 1] ++ List.replicate 11 0) := by decide

/-- 12.1: a COMMIT with nothing queued asks for the seal at its take. -/
theorem test_commit :
    let t := after .commit (framed opened)
    t.ctl.state = .DRAINING ∧ t.writes = [.SEAL] ∧ t.link.answer = some [0x00] := by decide

/-- R31: a COMMIT in RECOVERY is answered STATE. -/
theorem test_commit_recovery :
    (after .commit (framed { opened with ctl := { opened.ctl with state := .RECOVERY } })).link.answer = some [0x02] := by decide

/-- R53: ABORT in OPEN with nothing in flight asks for the mark. -/
theorem test_abort :
    let t := after .abort (framed opened)
    t.ctl.state = .ROLLBACK ∧ t.ctl.cause = some .ABORT ∧ t.writes = [.MARK] := by decide

set_option maxRecDepth 8000 in
/-- R69: RETRY_RESTORE writes the failed slot again from word 0. -/
theorem test_retryRestore :
    let t := after .retryRestore
      (framed { unwinding .COMPLETE .HALTED [] with ctl := { opened.ctl with state := .STALLED, stallOrigin := some .ROLLBACK } })
    t.ctl.state = .ROLLBACK ∧ t.restore.state = .WRITING ∧ t.port.inFlight.map (·.addr) = some 0x004000 := by decide

/-- R70: DISCARD_JOURNAL in STALLED asks for the discard write. -/
theorem test_discardJournal :
    (after .discardJournal (framed { unwinding .COMPLETE .HALTED [] with ctl := { opened.ctl with state := .STALLED } })).writes =
      [.DISCARD] := by decide

/-- 12.1: STAGE_REGION 0 is DONE and its mark is set; the active table is unchanged. -/
theorem test_stageRegion :
    let t := after (.stageRegion 0 2 512 1023 1 8192 2 1) (framed State.reset)
    t.staged[0] = { entry := region0, touched := true } ∧ t.active[0] = defaultRegion := by decide

/-- R186: a limit line of 524,288 is out of range; nothing is staged. -/
theorem test_stageRegion_range :
    let t := after (.stageRegion 0 2 512 524288 1 8192 2 1) (framed State.reset)
    t.staged = State.reset.staged ∧ t.link.answer = some [0x03] := by decide

/-- R108: the marks are cleared and the contents kept. -/
theorem test_clearStaged :
    (after .clearStaged (framed { opened with staged := opened.staged.set 3 { entry := region0, touched := true } })).staged[3] =
      { entry := region0, touched := false } := by decide

/-- Section 11.4: the ACTIVE answer for region 0 of 12.1, field by field. -/
theorem test_readRegion :
    (after (.readRegion 0 0) (framed opened)).link.answer =
      some ([0x00, 0x02, 0x00, 0x02, 0x00, 0x00, 0x03, 0xFF, 0x01, 0x00, 0x20, 0x00, 0x02, 0x01] ++ List.replicate 8 0) := by decide

/-- R124: the trip is cleared, the latch stays. -/
theorem test_clearTrip :
    (after (.clearTrip 0) (framed
        { opened with meters := opened.meters.set 0 { count := 4, latch := 9000, strikes := 0, trip := .TRIPPED } })).meters[0] =
      { count := 4, latch := 9000, strikes := 0, trip := .CLEAR } := by decide

/-- R179, R34: in OPEN a changed interval starts the timer; the level byte 0xFF is L 256. -/
theorem test_setConfig :
    let t := after (.setConfig 7 0 0xFF 2) (framed opened)
    t.cfg = { windowCode := 7, holdCode := 0, highWater := 256, autoInterval := 2 } ∧ t.ctl.autoTimer = some 2000 := by decide

/-- R181: after a restart the answer is 4, 5, 191 and 0. -/
theorem test_readConfig : (after .readConfig (framed opened)).link.answer = some [0x00, 0x04, 0x05, 0xBF, 0x00, 0x00] := by decide

/-- 12.1: with RESTARTED set, enabling it drives ALERT# low. -/
theorem test_setEnables : (after (.setEnables 0x0004) (framed State.reset)).events.alert = .LOW := by decide

/-- R186: bit 12 names no flag. -/
theorem test_setEnables_range : (after (.setEnables 0x1000) (framed State.reset)).link.answer = some [0x03] := by decide

/-- 12.1: the answer names RETENTION_LOST and RESTARTED, bits 3 and 2. -/
theorem test_takeEvents :
    let t := after .takeEvents (framed State.reset)
    t.link.answer = some [0x00, 0x00, 0x0C] ∧ t.events.flags = 0 := by decide

/-- R135: an empty log answers k 0 with the dropped count, which becomes 0. -/
theorem test_takeRefusals :
    let t := after (.takeRefusals 4) (framed { opened with report := { opened.report with dropped := 7 } })
    t.link.answer = some [0x00, 0x00, 0x07] ∧ t.report.dropped = 0 := by decide

/-- R187: an empty fault record is all zeros. -/
theorem test_readFault : (after .readFault (framed opened)).link.answer = some (List.replicate 16 0) := by decide

/-- R140: the record is emptied. -/
theorem test_clearFault :
    (after .clearFault (framed { opened with report := { opened.report with
      fault := some { source := .HOST_READ, cause := .ERR, addr := 0, epoch := 1, uptime := 0, repeats := 3 } } })).report.fault = none :=

  by decide

/-- R46: no records yet. -/
theorem test_readOutcomes : (after .readOutcomes (framed opened)).link.answer = some [0x00, 0x00] := by decide

/-- R24: a FILLING slot carries no image. -/
theorem test_readEntry :
    (after (.readEntry 0) (framed { opened with retention := oneSlot .OPEN .FILLING })).link.answer =
      some [0x00, 0x01, 0x00, 0x02, 0x00, 0x00, 0x00] := by decide

/-- R174: a code that names no command is answered UNKNOWN. -/
theorem test_unknownCode : (after (.unknownCode 0xFF) (framed opened)).link.answer = some [0x04] := by decide

/-- R169: the first bit of the code joins the byte, MDO shifts zeros out. -/
theorem test_mckRisingEdge :
    let t := after (.mckRisingEdge true) (framed opened)
    t.link.shift = 1 ∧ t.link.bitCount = 1 ∧ t.link.mdo = some false := by decide

/-- R32: a rise of MARK starts its microsecond. -/
theorem test_markRisingEdge : (after .markRisingEdge opened).mark = .QUALIFYING := by decide

/-- R32: a fall drops it. -/
theorem test_markFallingEdge : (after .markFallingEdge { opened with mark := .QUALIFYING }).mark = .LOW := by decide

/-- R164: entry to FAILING drops the microsecond of RST#; an expiry already due then asserts nothing. -/
theorem test_rstFallingEdge_dropped :
    (after .rstAssert (after .vddFail (after .rstFallingEdge opened))).resetInForce = false := by decide

/-- R159: RST# low starts its microsecond. -/
theorem test_rstFallingEdge : (after .rstFallingEdge opened).rst = .QUALIFYING := by decide

/-! ### States that meet the hypotheses of the statements

One theorem for each statement that has hypotheses; where it has several clauses, one state for each, at a boundary value where a clause
has a range. -/

theorem noHold_of_none {s : State} (h : s.host = none) : NoHold s := fun job hj => by rw [h] at hj; cases hj

theorem noHold_capturing (stage : CaptureStage) (words : List Lanes) (failure : Option Cause) : NoHold (capturing stage words failure) := by
  intro job hj deadline
  cases hj
  exact Stage.noConfusion

/-- A WRITE in progress, held with a deadline. -/
def heldJob (deadline : Option Nat) : HostJob := { capturingJob with stage := .HELD deadline }

/-- The part DRAINING with that hold. -/
def holding (deadline : Option Nat) : State :=
  { opened with ctl := { opened.ctl with state := .DRAINING }, host := some (heldJob deadline) }

/-- The part stopped by a supply episode, settling. -/
def settling (n : Nat) : State :=
  { State.reset with supply := .SETTLING, settle := .RUNNING n, ctl := { State.reset.ctl with state := .OFF } }

theorem witness_IdleStepLetsOneMicrosecondPass :
    (opened.pending = [] ∧ isRunning opened = true ∧ opened.host = none ∧ (opened.supply ≠ .SETTLING ∨ ∀ n, opened.settle ≠ .RUNNING n)) ∧
    ((holding (some 0)).pending = [] ∧ (holding (some 0)).host = some (heldJob (some 0)) ∧ (heldJob (some 0)).stage = .HELD (some 0)) ∧
    ((holding none).host = some (heldJob none) ∧ ∀ n, (heldJob none).stage ≠ .HELD (some n)) ∧
    ((settling 0).pending = [] ∧ isRunning (settling 0) = false ∧ (settling 0).supply = .SETTLING ∧ (settling 0).settle = .RUNNING 0) :=
  ⟨⟨rfl, rfl, rfl, .inl (by decide)⟩, ⟨rfl, rfl, rfl⟩, ⟨rfl, fun _ h => by cases h⟩, rfl, rfl, rfl, rfl⟩

theorem witness_DueExpiriesAreQueued :
    opened.pending = [] ∧ ([Instr.markRequest, .windowBoundary]).Perm [.windowBoundary, .markRequest] := ⟨rfl, by decide⟩

theorem supplyLaw_opened : SupplyLaw opened where
  off := by decide
  stopped := fun h => by cases h
  running := fun _ w h => by cases h
  asserted := fun h => by cases h
  alert := ⟨fun h => absurd h (by decide), fun ⟨_, _, h, _⟩ => by simp [opened] at h⟩

theorem witness_SupplyLawKept : SupplyLaw opened ∧ ∃ t, step opened = .next t := ⟨supplyLaw_opened, _, rfl⟩

theorem witness_RangeLawKept : RangeLaw opened ∧ ∃ t, step opened = .next t := by
  refine ⟨?_, _, rfl⟩
  constructor
  · have h : ∀ i : RegionNo, (opened.active.get i).base.toNat ≤ (opened.active.get i).limit.toNat ∧ 1 ≤ (opened.active.get i).writeLimit ∧
        (opened.active.get i).writeLimit ≤ 16777215 ∧ 1 ≤ (opened.active.get i).qualify ∧ (opened.active.get i).qualify ≤ 15 := by decide
    exact h
  · have h : ∀ i : RegionNo, (opened.staged.get i).entry.base.toNat ≤ (opened.staged.get i).entry.limit.toNat ∧
        1 ≤ (opened.staged.get i).entry.writeLimit ∧ (opened.staged.get i).entry.writeLimit ≤ 16777215 ∧
        1 ≤ (opened.staged.get i).entry.qualify ∧ (opened.staged.get i).entry.qualify ≤ 15 := by decide
    exact h
  · have h : ∀ i : RegionNo, (opened.meters.get i).count ≤ 16777215 ∧ (opened.meters.get i).latch ≤ 16777215 ∧
        (opened.meters.get i).strikes < (opened.active.get i).qualify ∧
        ((opened.meters.get i).trip = .TRIPPED → isMetered (opened.active.get i) = true ∧ (opened.meters.get i).strikes = 0) := by decide
    exact h
  · decide
  · decide
  · intro f h
    cases h
  · decide
  · decide
  · intro _
    decide
  · intro h
    cases h
  · decide
  · intro h
    cases h

theorem witness_OneAnswerPerRequest :
    SupplyLaw { opened with pending := [.hostRequest .READ 0 .four 7] } ∧
      ∃ t, step { opened with pending := [.hostRequest .READ 0 .four 7] } = .next t :=
  ⟨⟨supplyLaw_opened.off, fun h => absurd h (by decide), supplyLaw_opened.running, supplyLaw_opened.asserted, supplyLaw_opened.alert⟩, _,
      rfl⟩

theorem witness_RetentionChangesOnlyByItsWrites :
    (∃ t, step { opened with retention := oneSlot .OPEN .COMPLETE, writes := [.SEAL], pending := [.sealWriteEnd] } = .next t) ∧
    ∃ t, step { opened with retention := oneSlot .OPEN .COMPLETE, writes := [.SEAL], pending := [.vddFail] } = .next t :=
  ⟨⟨_, rfl⟩, _, rfl⟩

theorem witness_TablesAndSettingsChangeOnlyByRule :
    ∃ t, exec .vddGood opened = .next t ∧ Instr.vddGood ≠ .settleTimerExpiry ∧ Instr.vddGood ≠ .rstRelease ∧
      Instr.vddGood ≠ .firstPower ∧ (∀ low, Instr.vddGood ≠ .vddSwitchOver low) ∧
      Instr.vddGood ≠ .sealWriteEnd ∧ (∀ mdi, Instr.vddGood ≠ .mckRisingEdge mdi) ∧ Instr.vddGood ≠ .clearStaged ∧
      (∀ n k b l m w q a, Instr.vddGood ≠ .stageRegion n k b l m w q a) ∧ (∀ w h l n, Instr.vddGood ≠ .setConfig w h l n) ∧
      (∀ e, Instr.vddGood ≠ .setEnables e) ∧ Instr.vddGood ≠ .takeEvents :=
  ⟨_, rfl, by decide, by decide, by decide, by simp, by decide, by simp, by decide, by simp, by simp, by simp, by decide⟩


theorem witness_FrameRoundTrip : (Instr.readRegion 0x0F 0x01).wf = true ∧ frameBytes (.readRegion 0x0F 0x01) = some [0x12, 0x0F, 0x01] :=
  ⟨rfl, rfl⟩

theorem witness_EdgesCarryTheCommand :
    (Instr.readRegion 0x0F 0x01).wf = true ∧ frameBytes (.readRegion 0x0F 0x01) = some [0x12, 0x0F, 0x01] ∧
      isRunning (framed opened) = true ∧ (framed opened).link = present { idleLink with state := .RECEIVING } := ⟨rfl, rfl, rfl, rfl⟩

theorem witness_AnswerIsClockedOut :
    { opened with link := respondingLink 0x21 [] [0x00, 0x04] }.link = respondingLink 0x21 [] [0x00, 0x04] := rfl

/-- A frame in progress with 6 bits of its first byte received: the last edge that does not complete it is next. -/
def sixBits : State := { opened with link := { linkOpen with bitCount := 6 } }

theorem witness_LinkLines :
    (opened.link.state = .IDLE ∧ isRunning opened = true) ∧ ((settling 0).link.state = .IDLE ∧ isRunning (settling 0) = false) ∧
    (framed opened).link.state ≠ .IDLE ∧ (sixBits.link.state = .RECEIVING ∧ sixBits.link.bitCount < 7) ∧
    ({ opened with link := respondingLink 0x21 [] [0x00] }.link.state ≠ .RECEIVING ∧
      { opened with link := respondingLink 0x21 [] [0x00] }.link.state ≠ .IDLE) := by decide

/-- The frame of a command is in progress, with nothing received of it. -/
theorem ready {i : Instr} {s : State} (h : (frameBytes i).isSome = true) (hr : isRunning s = true) : FrameReady i (framed s) := by
  obtain ⟨bytes, hb⟩ := Option.isSome_iff_exists.1 h
  refine ⟨bytes, hb, ?_⟩
  have e : receivedBits (framed s).link = [] := rfl
  have r : isRunning (framed s) = true := hr
  have st : (framed s).link.state = .RECEIVING := rfl
  simp [canComplete, e, r, st]

theorem witness_LinkCommandNeedsItsFrame :
    ((frameBytes .commit).isSome = true ∧ ¬ FrameReady .commit opened) ∧ (paramCount 0x34).isSome = true :=
  ⟨⟨rfl, fun ⟨_, _, h⟩ => by simp [canComplete, opened, State.reset, idleLink] at h⟩, rfl⟩

theorem witness_HostRequestNotKept :
    { opened with supply := SupplyState.BACKUP }.supply = .BACKUP ∧
    ((settling 0).supply ≠ .BACKUP ∧ isRunning (settling 0) = false) ∧
    (isRunning (capturing .WAITING [] none) = true ∧ (capturing .WAITING [] none).host.isSome = true) := by decide

/-- The part in an epoch state. -/
def inState (st : EpochState) : State := { opened with ctl := { opened.ctl with state := st } }

/-- The part with region 0 TRIPPED. -/
def trippedPart : State := { opened with meters := opened.meters.set 0 { count := 0, latch := 9000, strikes := 0, trip := .TRIPPED } }

theorem passesCheck1 (st : EpochState) (h : st = .OPEN ∨ st = .DRAINING ∨ st = .ROLLBACK) : PassesCheck1 (inState st) := ⟨rfl, rfl, h⟩

theorem witness_HostRequestRefused :
    (isRunning (inState .RECOVERY) = true ∧ (inState .RECOVERY).host = none ∧ (inState .RECOVERY).ctl.state = .RECOVERY) ∧
    (isRunning (inState .STALLED) = true ∧ (inState .STALLED).host = none ∧ (inState .STALLED).ctl.state = .STALLED) ∧
    (PassesCheck1 (inState .DRAINING) ∧ (0x003FFC : Addr).toNat % sizeBytes .four = 0 ∧
      governingRegion (inState .DRAINING) (lineOf 0x003FFC) = some 1 ∧ ((inState .DRAINING).active.get 1).kind = .READONLY) ∧
    (PassesCheck1 trippedPart ∧ (0x004000 : Addr).toNat % sizeBytes .four = 0 ∧ governingRegion trippedPart (lineOf 0x004000) = some 0 ∧
      (trippedPart.active.get 0).kind ≠ .READONLY ∧ (trippedPart.meters.get 0).trip = .TRIPPED) :=
  ⟨by decide, by decide, ⟨passesCheck1 _ (.inr (.inl rfl)), by decide, by decide, by decide⟩,
    ⟨rfl, rfl, .inl rfl⟩, by decide, by decide, by decide, by decide⟩

theorem witness_AlignmentIsChecked :
    PassesCheck1 (inState .ROLLBACK) ∧ (0x004002 : Addr).toNat % sizeBytes .four ≠ 0 ∧ (0x004002 : Addr).toNat % sizeBytes .two = 0 ∧
      (0x004001 : Addr).toNat % sizeBytes .two ≠ 0 ∧ (0xFFFFFF : Addr).toNat % sizeBytes .one = 0 :=
  ⟨passesCheck1 _ (.inr (.inr rfl)), by decide, by decide, by decide, by decide⟩

/-- The part with n entries queued. -/
def queued (n : Nat) : State := { opened with queue := List.replicate n entry512 }

theorem passesCheck4 {s : State} (r : Option RegionNo)
    (h : ∀ i, r = some i → (s.active.get i).kind ≠ .READONLY ∧ (s.meters.get i).trip = .CLEAR) : PassesCheck4 s r := h

theorem witness_HostRequestHeld :
    (PassesCheck1 (inState .ROLLBACK) ∧ (inState .ROLLBACK).ctl.state = .ROLLBACK) ∧
    (PassesCheck1 (inState .DRAINING) ∧ PassesCheck4 (inState .DRAINING) (governingRegion (inState .DRAINING) (lineOf 0x004000)) ∧
      ((inState .DRAINING).ctl.state = .OPEN → 8 ≤ (inState .DRAINING).queue.length)) ∧
    (PassesCheck1 (queued 8) ∧ PassesCheck4 (queued 8) (governingRegion (queued 8) (lineOf 0x004000)) ∧
      ((queued 8).ctl.state = .OPEN → 8 ≤ (queued 8).queue.length)) ∧
    (0x004000 : Addr).toNat % sizeBytes .four = 0 :=
  ⟨⟨passesCheck1 _ (.inr (.inr rfl)), rfl⟩, ⟨passesCheck1 _ (.inr (.inl rfl)), passesCheck4 _ (by decide), by decide⟩,
    ⟨⟨rfl, rfl, .inl rfl⟩, passesCheck4 _ (by decide), by decide⟩, by decide⟩

theorem writePasses {s : State} {addr : Addr} {size : Size} {r : Option RegionNo} (h1 : isRunning s = true) (h2 : s.host = none)
    (h3 : s.ctl.state = .OPEN) (h4 : s.queue.length < 8) (h5 : addr.toNat % sizeBytes size = 0)
    (h6 : governingRegion s (lineOf addr) = r) (h7 : PassesCheck4 s r) : WritePasses s addr size r := ⟨h1, h2, h3, h4, h5, h6, h7⟩

/-- Region 2: PASS, metered, lines 1,024 to 2,047. -/
def region2 : Region :=
  { kind := .PASS, base := 1024, limit := 2047, metered := true, writeLimit := 1, qualify := 1, action := .REFUSE }

/-- The part with region 2 too, and 7 entries queued. -/
def passPart : State := { queued 7 with active := opened.active.set 2 region2 }

theorem witness_HostWritePosted :
    (WritePasses (queued 7) 0x00FFFE .two none ∧ ∀ i, (none : Option RegionNo) = some i → ((queued 7).active.get i).kind ≠ .GUARDED) ∧
    (WritePasses passPart 0x00FFFE .two (some 2) ∧ ∀ i, some 2 = some i → (passPart.active.get i).kind ≠ .GUARDED) ∧
    isMetered (passPart.active.get 2) = true ∧ isMetered (passPart.active.get 1) = false := by
  refine ⟨⟨writePasses rfl rfl rfl (by decide) (by decide) (by decide) (passesCheck4 _ (fun _ h => by cases h)), fun _ h => by cases h⟩,
    ⟨writePasses rfl rfl rfl (by decide) (by decide) (by decide) (passesCheck4 _ (fun _ h => by cases h; decide)),
      fun _ h => by cases h; decide⟩,
    by decide, by decide⟩

/-- The part with 256 slots taken. -/
def fullJournal : State :=
  { opened with
    retention := { initialStore with header := { state := .OPEN, epoch := 1, boot := 0, count := 256, nextSeq := 0, cause := none } } }

/-- The part with a count of 255. -/
def lastSlot : State :=
  { opened with
    retention := { initialStore with header := { state := .OPEN, epoch := 1, boot := 0, count := 255, nextSeq := 255, cause := none } } }

/-- The part with line 512 in its index. -/
def journaled : State := { opened with retention := oneSlot .OPEN .COMPLETE, index := [(512, 0)] }

set_option maxRecDepth 8000 in
theorem witness_GuardedWriteDecision :
    (WritePasses journaled 0x004000 .four (some 0) ∧ (journaled.active.get 0).kind = .GUARDED ∧
      (indexLookup journaled (lineOf 0x004000)).isSome = true) ∧
    (WritePasses fullJournal 0x004000 .four (some 0) ∧ (fullJournal.active.get 0).kind = .GUARDED ∧
      indexLookup fullJournal (lineOf 0x004000) = none ∧ 256 ≤ fullJournal.retention.header.count) ∧
    (WritePasses lastSlot 0x004000 .four (some 0) ∧ (lastSlot.active.get 0).kind = .GUARDED ∧
      indexLookup lastSlot (lineOf 0x004000) = none ∧ lastSlot.retention.header.count < 256 ∧ lowestFree lastSlot.retention = some 0) := by
  refine ⟨⟨writePasses rfl rfl rfl (by decide) (by decide) (by decide) (passesCheck4 _ (fun _ h => by cases h; decide)),
      by decide, by decide⟩,
    ⟨writePasses rfl rfl rfl (by decide) (by decide) (by decide) (passesCheck4 _ (fun _ h => by cases h; decide)),
        by decide, by decide, by decide⟩,
    ⟨writePasses rfl rfl rfl (by decide) (by decide) (by decide) (passesCheck4 _ (fun _ h => by cases h; decide)),
        by decide, by decide, by decide,
      by decide⟩⟩

theorem witness_HostReadGoes :
    (isRunning opened = true ∧ opened.host = none ∧ opened.ctl.state = .OPEN ∧ (0x003FFF : Addr).toNat % sizeBytes .one = 0) ∧
    (isRunning (inState .DRAINING) = true ∧ (inState .DRAINING).host = none ∧ (inState .DRAINING).ctl.state = .DRAINING ∧
      (0x003FFE : Addr).toNat % sizeBytes .two = 0) := by decide

theorem witness_LowestCoveringRegionGoverns :
    CoversLine opened 512 0 ∧ CoversLine opened 1023 0 ∧ ¬ CoversLine opened 1024 0 ∧ CoversLine opened 511 1 ∧
      governingRegion opened 1024 = none := by
  refine ⟨?_, ?_, ?_, ?_, ?_⟩
  · show _ ∧ _ ∧ _
    decide
  · show _ ∧ _ ∧ _
    decide
  · show ¬ (_ ∧ _ ∧ _)
    decide
  · show _ ∧ _ ∧ _
    decide
  · decide

/-- A refusal record. -/
def record1 : RefusalRecord :=
  { seq := 0, uptime := 0, kind := .WRITE, addr := 0, size := .one, reason := .PROTECT, region := some 1, epoch := 1 }

/-- A fault record, counted to its end. -/
def fault1 : FaultRecord := { source := .HOST_READ, cause := .ERR, addr := 0, epoch := 1, uptime := 0, repeats := 255 }

theorem witness_EventsAndReportsAreTaken :
    { opened with report := { opened.report with log := List.replicate 15 record1 } }.report.log.length < 16 ∧
    16 ≤ { opened with report := { opened.report with log := List.replicate 16 record1 } }.report.log.length ∧
    opened.report.fault = none ∧ { opened with report := { opened.report with fault := some fault1 } }.report.fault = some fault1 :=
  by decide

/-- A host read at memory. -/
def readJob : HostJob := { op := .READ, addr := 0x004000, size := .four, tag := 5, stage := .AT_MEMORY, region := some 0 }

theorem witness_HoldsAndWaits :
    ((holding (some 0)).host = some (heldJob (some 0)) ∧ (heldJob (some 0)).stage = .HELD (some 0)) ∧
    (∀ job, opened.host = some job → job.stage ≠ .HELD (some 0)) ∧
    ((holding (some 1)).host = some (heldJob (some 1)) ∧ (heldJob (some 1)).stage ≠ .HELD (some 0)) ∧
    ((holding none).host = some (heldJob none) ∧ (heldJob none).stage = .HELD none) ∧
    NoHold opened ∧ (∀ job, opened.host = some job → job.stage ≠ .HAZARD) ∧
    ({ opened with host := some { readJob with stage := .HAZARD } }.host = some { readJob with stage := .HAZARD } ∧
      { readJob with stage := Stage.HAZARD }.stage = .HAZARD) :=
  ⟨⟨rfl, rfl⟩, fun _ h => by (cases h), ⟨rfl, by decide⟩, ⟨rfl, rfl⟩, noHold_of_none rfl, fun _ h => by (cases h), rfl, rfl⟩

/-- The held request of a part. -/
def withHeld (job : HostJob) (s : State) : State := { s with host := some { job with stage := .HELD none } }

/-- The held WRITE to line 512. -/
def heldWrite : HostJob := heldJob none

/-- A held READ of line 512. -/
def heldRead : HostJob := { readJob with stage := .HELD none }

/-- A held WRITE to line 1,536, which has no region. -/
def heldPlain : HostJob := { heldWrite with addr := 0x00C000 }

/-- A held WRITE to a line of region 1, READONLY. -/
def heldProtected : HostJob := { heldWrite with addr := 0x003FFC }

/-- A held WRITE at an address that is no multiple of its size. -/
def heldSkewed : HostJob := { heldWrite with addr := 0x004002 }

theorem passesCheck2 {s : State} {job : HostJob} (h : s.ctl.state = .OPEN ∨ s.ctl.state = .DRAINING ∨ s.ctl.state = .ROLLBACK)
    (a : job.addr.toNat % sizeBytes job.size = 0) : PassesCheck2 s job := ⟨h, a⟩

/-- The hold's end in every way that the re-evaluation gives it: each outcome has a held request that meets it (R78 to R88). -/
theorem witness_Reevaluated_ends :
    (∃ t, Reevaluated (withHeld heldWrite (inState .OFF)) heldWrite t) ∧
    (∃ t, Reevaluated (withHeld heldWrite (inState .RECOVERY)) heldWrite t) ∧
    (∃ t, Reevaluated (withHeld heldWrite (inState .STALLED)) heldWrite t) ∧
    (∃ t, Reevaluated (withHeld heldSkewed opened) heldSkewed t) ∧
    (∃ t, Reevaluated (withHeld heldProtected opened) heldProtected t) ∧
    ∃ t, Reevaluated (withHeld heldWrite trippedPart) heldWrite t :=
  ⟨⟨_, .off rfl⟩, ⟨_, .recovering rfl⟩, ⟨_, .stalled rfl⟩, ⟨_, .misaligned (.inl rfl) (by decide)⟩,
    ⟨_, .protect 1 word1 (passesCheck2 (.inl rfl) (by decide)) rfl (by decide) (by decide)⟩,
    _, .tripped 0 word1 (passesCheck2 (.inl rfl) (by decide)) rfl (by decide) (by decide) (by decide)⟩

theorem witness_Reevaluated_holds :
    (∃ t, Reevaluated (withHeld heldRead (inState .ROLLBACK)) heldRead t) ∧
    (∃ t, Reevaluated (withHeld heldWrite (inState .DRAINING)) heldWrite t) ∧
    ∃ t, Reevaluated (withHeld heldWrite (queued 8)) heldWrite t :=
  ⟨⟨_, .readHeld (passesCheck2 (.inr (.inr rfl)) (by decide)) rfl rfl⟩,
    ⟨_, .writeHeld word1 (passesCheck2 (.inr (.inl rfl)) (by decide)) rfl (passesCheck4 _ (by decide)) (by decide)⟩,
    _, .writeHeld word1 (passesCheck2 (.inl rfl) (by decide)) rfl (passesCheck4 _ (by decide)) (by decide)⟩

set_option maxRecDepth 8000 in
theorem witness_Reevaluated_goes :
    (∃ t, Reevaluated (withHeld heldRead opened) heldRead t) ∧
    (∃ t, Reevaluated (withHeld heldPlain (queued 7)) heldPlain t) ∧
    (∃ t, Reevaluated (withHeld heldWrite journaled) heldWrite t) ∧
    (∃ t, Reevaluated (withHeld heldWrite fullJournal) heldWrite t) ∧
    ∃ t, Reevaluated (withHeld heldWrite lastSlot) heldWrite t :=
  ⟨⟨_, .readGoes (passesCheck2 (.inl rfl) (by decide)) rfl (by decide)⟩,
    ⟨_, .posted word1 ⟨rfl, rfl, by decide, by decide, passesCheck4 _ (by decide)⟩ (by decide)⟩,
    ⟨_, .proceeds 0 word1 ⟨rfl, rfl, by decide, by decide, passesCheck4 _ (by decide)⟩ (by decide) (by decide) (by decide)⟩,
    ⟨_, .full 0 word1 ⟨rfl, rfl, by decide, by decide, passesCheck4 _ (by decide)⟩ (by decide) (by decide) (by decide) (by decide)⟩,
    _, .captures 0 word1 0 ⟨rfl, rfl, by decide, by decide, passesCheck4 _ (by decide)⟩ (by decide) (by decide) (by decide) (by decide)
      (by decide)⟩


theorem witness_ResponseWithoutItsAccess :
    ({ opened with port := portWith .READ [] }.supply ≠ .BACKUP ∧
      ∀ a, { opened with port := portWith .READ [] }.port.inFlight = some a → a.tag ≠ 15) ∧
    { opened with supply := SupplyState.BACKUP }.supply = .BACKUP ∧ opened.port.inFlight = none ∧
    { portWith .READ [] with timer := 199 }.timer < 200 :=
  ⟨⟨by decide, fun _ h => by (cases h; decide)⟩, rfl, rfl, by decide⟩

/-- The part with an access in flight for a grant holder. -/
def serving (h : Holder) (kind : RequestKind) (data : List Byte) (s : State) : State :=
  { s with port := portWith kind data, arbiter := { grant := some h, hostCount := 0 } }

/-- The part with a host read at memory. -/
def reading : State := serving .HOST_READ .READ [] { opened with host := some readJob }

theorem witness_HostReadEnds :
    reading.supply ≠ .BACKUP ∧ reading.arbiter.grant = some .HOST_READ ∧ reading.host = some readJob ∧
    (∃ p, AccessEnds reading (.memoryResponse 3 (.OK word1)) (accessOf .READ []) (.OK word1) p) ∧
    (∃ p, AccessEnds reading (.memoryResponse 3 .ERR) (accessOf .READ []) (.FAILED .ERR) p) ∧
    (∃ p, AccessEnds reading .memoryResponseLimit (accessOf .READ []) (.FAILED .NO_RESPONSE) p) :=
  ⟨by decide, rfl, rfl, ⟨_, .ok (accessOf .READ []) word1 rfl⟩, ⟨_, .err (accessOf .READ []) rfl⟩, _, .limit (accessOf .READ []) rfl (by decide)⟩

/-- The part with its queue's one entry in flight. -/
def posting : State := serving .QUEUE_HEAD .WRITE word1.toList { opened with queue := [{ entry512 with inFlight := true }] }

theorem witness_PostedWriteEnds :
    posting.supply ≠ .BACKUP ∧ posting.arbiter.grant = some .QUEUE_HEAD ∧ posting.queue = { entry512 with inFlight := true } :: [] ∧
    (∃ p, AccessEnds posting (.memoryResponse 3 (.OK word1)) (accessOf .WRITE word1.toList) (.OK word1) p) ∧
    (∃ p, AccessEnds posting .memoryResponseLimit (accessOf .WRITE word1.toList) (.FAILED .NO_RESPONSE) p) :=
  ⟨by decide, rfl, rfl, ⟨_, .ok (accessOf .WRITE word1.toList) word1 rfl⟩, _, .limit (accessOf .WRITE word1.toList) rfl (by decide)⟩

/-- The part with a capture read at memory, after n words. -/
def captureReading (stage : CaptureStage) (n : Nat) : State := serving .CAPTURE .READ [] (capturing stage (List.replicate n word1) none)

/-- An abandoned capture with its read at memory. -/
def abandoning (ws : List RetentionWrite) : State := { captureReading .ABANDONING 0 with writes := ws }

theorem witness_CaptureReadEnds :
    (∀ n, (captureReading .READING n).supply ≠ .BACKUP ∧ (captureReading .READING n).arbiter.grant = some .CAPTURE ∧
      (captureReading .READING n).capture = some (captureAt .READING (List.replicate n word1) none) ∧
      AccessEnds (captureReading .READING n) (.memoryResponse 3 (.OK word1)) (accessOf .READ []) (.OK word1)
          { portWith .READ [] with inFlight := none, timer := 0 } ∧
      AccessEnds (captureReading .READING n) (.memoryResponse 3 .ERR) (accessOf .READ []) (.FAILED .ERR)
          { portWith .READ [] with inFlight := none, timer := 0 }) ∧
    (captureAt .READING (List.replicate 6 word1) none).words.length < 7 ∧
        (captureAt .READING (List.replicate 7 word1) none).words.length = 7 ∧
    (∀ ws, (abandoning ws).supply ≠ .BACKUP ∧ (abandoning ws).arbiter.grant = some .CAPTURE ∧
      (abandoning ws).capture = some (captureAt .ABANDONING [] none) ∧
      ∃ p, AccessEnds (abandoning ws) .memoryResponseLimit (accessOf .READ []) (.FAILED .NO_RESPONSE) p) ∧
    RetentionWrite.RELEASE ∈ (abandoning [.RELEASE]).writes ∧ RetentionWrite.RELEASE ∉ (abandoning []).writes :=
  ⟨fun _ => ⟨by simp [captureReading, serving, capturing, opened, State.reset], rfl, rfl, .ok (accessOf .READ []) word1 rfl,
      .err (accessOf .READ []) rfl⟩, by decide, by decide,
    fun _ => ⟨by simp [abandoning, captureReading, serving, capturing, opened, State.reset], rfl, rfl, _, .limit (accessOf .READ []) rfl (Nat.le_refl 200)⟩,
    by decide, by decide⟩

/-- The part with a restore word at memory. -/
def restoring (word : Fin 8) (attempt : Nat) : State :=
  serving .RESTORE .WRITE word1.toList
    { unwinding .COMPLETE .WRITING [] with restore := { state := .WRITING, slot := some 0, word := word, attempt := attempt, restored := 0 } }

theorem witness_RestoreWriteEnds :
    (∀ word attempt, (restoring word attempt).supply ≠ .BACKUP ∧ (restoring word attempt).arbiter.grant = some .RESTORE ∧
      (restoring word attempt).restore.state = .WRITING ∧ (restoring word attempt).restore.word = word ∧
      (restoring word attempt).restore.attempt = attempt ∧
      (∃ p, AccessEnds (restoring word attempt) (.memoryResponse 3 (.OK word1)) (accessOf .WRITE word1.toList) (.OK word1) p) ∧
      (∃ p, AccessEnds (restoring word attempt) (.memoryResponse 3 .ERR) (accessOf .WRITE word1.toList) (.FAILED .ERR) p)) ∧
    (6 : Fin 8) ≠ 7 :=
  ⟨fun _ _ => ⟨by simp [restoring, serving, unwinding, opened, State.reset], rfl, rfl, rfl, rfl,
    ⟨_, .ok (accessOf .WRITE word1.toList) word1 rfl⟩, _, .err (accessOf .WRITE word1.toList) rfl⟩, by decide⟩

/-- The part with a host read that waits for the port. -/
def waitingRead : State := { opened with host := some { readJob with stage := .PORT_WAIT } }

/-- A queue head and a host read wait after four host-side grants in a row. -/
def fourGrants : State := { waitingRead with queue := [entry512], arbiter := { grant := none, hostCount := 4 } }

/-- The port is free and its next tag, 0, is not owed. -/
def PortFree (s : State) : Prop :=
  isRunning s = true ∧ s.port.inFlight = none ∧ s.arbiter.grant = none ∧ firstTag s.port.owed 16 s.port.nextTag = some 0

theorem witness_ArbiterGrantsThePort :
    (PortFree (capturing .WAITING [] none) ∧ (capturing .WAITING [] none).capture = some (captureAt .WAITING [] none) ∧
      ¬ ((capturing .WAITING [] none).arbiter.hostCount = 4 ∧ headWaits (capturing .WAITING [] none) = true)) ∧
    (PortFree waitingRead ∧ waitingRead.host = some { readJob with stage := .PORT_WAIT } ∧ captureWaits waitingRead = false ∧
      ¬ (waitingRead.arbiter.hostCount = 4 ∧ headWaits waitingRead = true)) ∧
    (PortFree (queued 1) ∧ (queued 1).queue = entry512 :: [] ∧ entry512.inFlight = false ∧ captureWaits (queued 1) = false ∧
      hostReadWaits (queued 1) = false) ∧
    (PortFree fourGrants ∧ fourGrants.queue = entry512 :: [] ∧ fourGrants.arbiter.hostCount = 4) ∧
    (PortFree (unwinding .COMPLETE .WAITING []) ∧ (unwinding .COMPLETE .WAITING []).restore.state = .WAITING ∧
      (unwinding .COMPLETE .WAITING []).restore.slot = some 0 ∧
      ((unwinding .COMPLETE .WAITING []).retention.slots.get 0).image = some (Vector.replicate 8 word1) ∧
      captureWaits (unwinding .COMPLETE .WAITING []) = false ∧ hostReadWaits (unwinding .COMPLETE .WAITING []) = false ∧
      headWaits (unwinding .COMPLETE .WAITING []) = false) :=
  ⟨⟨⟨rfl, rfl, rfl, by decide⟩, rfl, by decide⟩, ⟨⟨rfl, rfl, rfl, by decide⟩, rfl, rfl, by decide⟩, ⟨⟨rfl, rfl, rfl, by decide⟩, rfl, rfl,
      rfl, rfl⟩,
    ⟨⟨rfl, rfl, rfl, by decide⟩, rfl, rfl⟩, ⟨rfl, rfl, rfl, by decide⟩, rfl, rfl, by decide, rfl, rfl, rfl⟩

theorem witness_ArbitrationFrame :
    (∃ tag : Tag, opened.port.owed.get tag.toFin = false) ∧ isRunning (settling 0) = false ∧ PortAtRest reading ∧ PortAtRest opened :=
  ⟨⟨15, by decide⟩, rfl, .inl rfl, .inr ⟨rfl, by decide⟩⟩

/-- The state with all 16 tags owed. -/
def allOwed (s : State) : State := { s with port := { inFlight := none, timer := 0, nextTag := 0, owed := Vector.replicate 16 true } }

/-- R74 with all 16 tags owed: for each grant holder, a part whose port rests once that holder has had its NO_RESPONSE. -/
theorem witness_ArbitrationFrame_all_owed :
    (isRunning (allOwed waitingRead) = true ∧ (allOwed waitingRead).port.inFlight = none ∧
      (∀ tag : Tag, (allOwed waitingRead).port.owed.get tag.toFin = true) ∧ (allOwed waitingRead).arbiter.grant = none ∧
      chooseHolder (allOwed waitingRead) = some .HOST_READ ∧ (allOwed waitingRead).host = some { readJob with stage := .PORT_WAIT } ∧
      PortAtRest { allOwed waitingRead with host := none }) ∧
    (chooseHolder (allOwed (capturing .WAITING [] none)) = some .CAPTURE ∧
      (allOwed (capturing .WAITING [] none)).capture = some (captureAt .WAITING [] none) ∧
      PortAtRest { allOwed (capturing .WAITING [] none) with capture := some (captureAt .READING [] (some .NO_RESPONSE)) }) ∧
    (chooseHolder (allOwed (queued 1)) = some .QUEUE_HEAD ∧ (allOwed (queued 1)).queue = entry512 :: [] ∧
      PortAtRest { allOwed (queued 1) with queue := [] }) ∧
    (chooseHolder (allOwed (unwinding .COMPLETE .WAITING [])) = some .RESTORE ∧
      (allOwed (unwinding .COMPLETE .WAITING [])).restore.slot = some 0 ∧
      ((unwinding .COMPLETE .WAITING []).retention.slots.get 0).image.isSome = true ∧
      (allOwed (unwinding .COMPLETE .WAITING [])).restore.attempt ≤ 3 ∧
      PortAtRest { allOwed (unwinding .COMPLETE .WAITING []) with restore := { State.reset.restore with state := .HALTED } }) :=
  ⟨⟨rfl, rfl, by decide, rfl, by decide, rfl, .inr ⟨rfl, by decide⟩⟩, ⟨by decide, rfl, .inr ⟨rfl, by decide⟩⟩,
    ⟨by decide, rfl, .inr ⟨rfl, by decide⟩⟩, by decide, rfl, by decide, by decide, .inr ⟨rfl, by decide⟩⟩


/-- The allocation write in progress. -/
def allocating : State := { capturing .ALLOCATING [] none with retention := initialStore, writes := [.ALLOCATION], index := [] }

set_option maxRecDepth 8000 in
theorem witness_AllocationWriteEnds :
    allocating.writes.head? = some .ALLOCATION ∧ allocating.capture = some (captureAt .ALLOCATING [] none) ∧
      lowestFree allocating.retention = some 0 := by decide

/-- The completion write in progress. -/
def completing : State := { capturing .READING (List.replicate 8 word1) none with writes := [.COMPLETION] }

theorem witness_CompletionWriteEnds :
    completing.writes.head? = some .COMPLETION ∧ completing.capture = some (captureAt .READING (List.replicate 8 word1) none) ∧
      completing.host = some capturingJob := by decide

/-- The release write of a failed capture in progress. -/
def releasing : State := { capturing .READING [] (some .ERR) with writes := [.RELEASE] }

theorem witness_ReleaseWriteEnds :
    (releasing.writes.head? = some .RELEASE ∧ releasing.capture = some (captureAt .READING [] (some .ERR)) ∧
      releasing.host = some capturingJob ∧ (captureAt .READING [] (some .ERR)).failure = some .ERR) ∧
    ((abandoning [.RELEASE]).writes.head? = some .RELEASE ∧ (abandoning [.RELEASE]).capture = some (captureAt .ABANDONING [] none) ∧
      (abandoning [.RELEASE]).host = some capturingJob ∧ (abandoning [.RELEASE]).arbiter.grant = some .CAPTURE) ∧
    { abandoning [.RELEASE] with arbiter := { grant := none, hostCount := 0 } }.arbiter.grant ≠ some .CAPTURE := by decide

/-- The part DRAINING with a faulted epoch. -/
def drainingFaulted : State := { opened with ctl := { opened.ctl with state := .DRAINING, faulted := true } }

theorem witness_DrainIsChecked :
    ((inState .DRAINING).ctl.state = .DRAINING ∧ isDrained (inState .DRAINING) = true ∧ (inState .DRAINING).writes = [] ∧
      (inState .DRAINING).retention.header.state ≠ .SEALED ∧ (inState .DRAINING).ctl.faulted = false) ∧
    (drainingFaulted.ctl.faulted = true ∧ isDrained drainingFaulted = true ∧ drainingFaulted.retention.header.state ≠ .UNWINDING ∧
      drainingFaulted.retention.header.state ≠ .SEALED ∧ drainingFaulted.writes = []) ∧
    ((inState .ROLLBACK).ctl.state = .ROLLBACK ∧ isDrained (inState .ROLLBACK) = true ∧
        (inState .ROLLBACK).retention.header.state ≠ .UNWINDING) ∧
    isDrained (queued 1) = false ∧ (opened.ctl.state ≠ .DRAINING ∧ opened.ctl.state ≠ .ROLLBACK) :=
  ⟨by decide, ⟨rfl, rfl, by decide, by decide, rfl⟩, by decide, rfl, by decide⟩

theorem witness_SealWriteEnds :
    { inState .DRAINING with writes := [.SEAL] }.writes.head? = some .SEAL ∧
    ({ opened with staged := opened.staged.set 15 { entry := region0, touched := true } }.staged.get 15).touched = true ∧
    (opened.staged.get 0).touched = false := by decide

theorem witness_ClearAndDiscardWritesEnd :
    { inState .RECOVERY with writes := [.CLEAR] }.writes.head? = some .CLEAR ∧
    { inState .STALLED with writes := [.DISCARD] }.writes.head? = some .DISCARD := by decide

set_option maxRecDepth 8000 in
theorem witness_UnwindingMarkEnds :
    { inState .ROLLBACK with writes := [.MARK] }.writes.head? = some .MARK ∧ (inState .RECOVERY).ctl.state = .RECOVERY ∧
    (∀ cause : RollbackCause, { opened.ctl with state := .ROLLBACK, cause := some cause }.state ≠ .RECOVERY ∧
      { opened.ctl with state := .ROLLBACK, cause := some cause }.cause = some cause) ∧
    newestSlot initialStore = none ∧
    (newestSlot (oneSlot .UNWINDING .COMPLETE) = some 0 ∧ ((oneSlot .UNWINDING .COMPLETE).slots.get 0).state = .COMPLETE) ∧
    (newestSlot (oneSlot .UNWINDING .FILLING) = some 0 ∧ ((oneSlot .UNWINDING .FILLING).slots.get 0).state ≠ .COMPLETE) :=
  ⟨rfl, rfl, fun _ => ⟨by simp, rfl⟩, by decide, by decide, by decide⟩

/-- A journal of two slots: line 512 in slot 0, line 513 in slot 1, the newest. -/
def twoSlots : Retention :=
  { oneSlot .UNWINDING .COMPLETE with
    header := { state := .UNWINDING, epoch := 1, boot := 0, count := 2, nextSeq := 2, cause := some .TRIP }
    slots := (oneSlot .UNWINDING .COMPLETE).slots.set 1
      { state := .COMPLETE, line := 513, region := 0, seq := 1, image := some (Vector.replicate 8 word1) } }

/-- The retire write of the newer of two slots in progress. -/
def retiringTwo : State := { unwinding .COMPLETE .RETIRING [.RETIRE] with retention := twoSlots }

set_option maxRecDepth 8000 in
theorem witness_RetireAndFinishWritesEnd :
    (retiringTwo.writes.head? = some .RETIRE ∧ newestSlot retiringTwo.retention = some 1 ∧ retiringTwo.retention.header.count ≠ 1) ∧
    ((unwinding .COMPLETE .RETIRING [.RETIRE]).writes.head? = some .RETIRE ∧
      newestSlot (unwinding .COMPLETE .RETIRING [.RETIRE]).retention = some 0 ∧
      (unwinding .COMPLETE .RETIRING [.RETIRE]).retention.header.count = 1) ∧
    (unwinding .FREE .RETIRING [.FINISH]).writes.head? = some .FINISH ∧ (inState .RECOVERY).ctl.state = .RECOVERY ∧
    ((unwinding .COMPLETE .RETIRING [.RETIRE]).ctl.state ≠ .RECOVERY ∧
      (unwinding .COMPLETE .RETIRING [.RETIRE]).retention.header.cause = some .ABORT) ∧
    (retiringTwo.ctl.state ≠ .RECOVERY ∧ retiringTwo.retention.header.cause = some .TRIP) := by decide

/-- An outcome record. -/
def outcome1 : OutcomeRecord := { epoch := 1, kind := .COMMITTED, entries := 0, boot := 0, uptime := 0 }

theorem witness_HistoryKeepsTheNewest :
    (List.replicate 7 outcome1).length < 8 ∧
    List.replicate 8 outcome1 = List.replicate 7 outcome1 ++ [outcome1] ∧ (List.replicate 8 outcome1).length = 8 := by decide

/-- The part with a pending commit. -/
def pendingPart (queue : List QueueEntry) : State :=
  { opened with ctl := { opened.ctl with state := .DRAINING, pendingCommit := true }, queue := queue }

/-- A COMPLETE slot k, for line k. -/
def fullSlot (k : SlotNo) : Slot :=
  { state := .COMPLETE, line := BitVec.ofNat 19 k.val, region := 0, seq := BitVec.ofNat 8 k.val, image := some (Vector.replicate 8 default) }

/-- A journal of n COMPLETE slots. -/
def denseStore (n : Nat) (st : HeaderState) : Retention :=
  { header := { state := st, epoch := 40, boot := 0, count := n, nextSeq := BitVec.ofNat 8 n,
                cause := if st = .UNWINDING then some .ABORT else none }
    slots := tabulate (fun k => if k.val < n then fullSlot k else freeSlot)
    history := [], latch := true }

theorem taken_dense (n : Nat) (st : HeaderState) (k : SlotNo) : Taken (denseStore n st) k ↔ k.val < n := by
  simp only [Taken, denseStore, get_tabulate]; split <;> simp [freeSlot, fullSlot, *]

theorem shape_dense (n : Nat) (st : HeaderState) (hn : n ≤ 256) (he : st = .EMPTY → n = 0) : JournalShape (denseStore n st) := by
  refine ⟨taken_dense n st, hn, fun k h => ?_, fun k h => ?_, fun _ => rfl, fun j k hj hk e => ?_, fun k => ?_, he, ?_⟩
  · rw [taken_dense] at h; simp only [denseStore, get_tabulate, if_neg h]; rfl
  · rw [taken_dense] at h; simp only [denseStore, get_tabulate, if_pos h]; rfl
  · rw [taken_dense] at hj hk; simp only [denseStore, get_tabulate, if_pos hj, if_pos hk, fullSlot] at e
    have := congrArg BitVec.toNat e
    simp only [BitVec.toNat_ofNat] at this
    exact Fin.ext (by omega)
  · simp only [denseStore, get_tabulate]; split <;> simp [freeSlot, fullSlot]
  · simp only [denseStore]; cases st <;> simp

theorem witness_JournalShapeKept :
    (∃ r, JournalShape r ∧ r.header.state = .EMPTY ∧ r.header.count = 0) ∧
    (∃ r, JournalShape r ∧ r.header.state = .OPEN ∧ r.header.count = 255 ∧ ∀ k, Taken r k → (r.slots.get k).line ≠ 900) ∧
    (∃ r, JournalShape r ∧ r.header.state = .OPEN ∧ r.header.count = 256) ∧
    (∃ r, JournalShape r ∧ r.header.state = .OPEN ∧ r.header.count = 1 ∧ (r.slots.get 0).state = .FILLING) ∧
    (∃ r, JournalShape r ∧ r.header.state = .SEALED) ∧
    (∃ r, JournalShape r ∧ r.header.state = .UNWINDING ∧ r.header.count = 0) ∧
    (∃ r, JournalShape r ∧ r.header.state = .UNWINDING ∧ r.header.count = 256) := by
  refine ⟨⟨denseStore 0 .EMPTY, shape_dense _ _ (by omega) (fun _ => rfl), rfl, rfl⟩,
    ⟨denseStore 255 .OPEN, shape_dense _ _ (by omega) (by simp), rfl, rfl, fun k h => ?_⟩,
    ⟨denseStore 256 .OPEN, shape_dense _ _ (by omega) (by simp), rfl, rfl⟩, ?_,
    ⟨denseStore 3 .SEALED, shape_dense _ _ (by omega) (by simp), rfl⟩,
    ⟨denseStore 0 .UNWINDING, shape_dense _ _ (by omega) (by simp), rfl, rfl⟩,
    ⟨denseStore 256 .UNWINDING, shape_dense _ _ (by omega) (by simp), rfl, rfl⟩⟩
  · rw [taken_dense] at h; simp only [denseStore, get_tabulate, if_pos h, fullSlot]
    intro e
    have := congrArg BitVec.toNat e
    simp at this
    omega
  · let g : SlotNo → Slot := fun k => if k = 0 then { state := .FILLING, line := 900, region := 0, seq := 0, image := none } else freeSlot
    have get : ∀ k, (tabulate g).get k = g k := get_tabulate g
    refine ⟨{ header := { state := .OPEN, epoch := 40, boot := 0, count := 1, nextSeq := 1, cause := none },
              slots := tabulate g, history := [], latch := true }, ?_, rfl, rfl, by simp only; rw [get]; rfl⟩
    have tk : ∀ k, (g k).state ≠ .FREE ↔ k = 0 := by intro k; simp only [g]; split <;> simp [freeSlot, *]
    refine ⟨fun k => ?_, by decide, fun k h => ?_, fun k h => ?_, fun _ => rfl, fun j k hj hk _ => ?_, fun k => ?_, by simp, by simp⟩
    · simp only [Taken]; rw [get, tk, Fin.ext_iff]; simp only [Fin.val_zero]; omega
    · simp only [Taken] at h; rw [get, tk] at h; simp only; rw [get]; simp [g, h, freeSlot]
    · simp only [Taken] at h; rw [get, tk] at h; subst h; simp only; rw [get]; rfl
    · simp only [Taken] at hj hk; rw [get, tk] at hj hk; rw [hj, hk]
    · simp only; rw [get]; simp only [g]; split <;> simp [freeSlot]
/-- The part with a journal of one COMPLETE slot, for line 0, and a GUARDED write of that line queued. -/
def journalPart : State :=
  { opened with retention := denseStore 1 .OPEN, index := [(0, 0)], queue := [{ entry512 with addr := 0 }] }

theorem supplyLaw_journalPart : SupplyLaw journalPart where
  off := ⟨fun h => by (cases h), fun h => by (cases h)⟩
  stopped := fun h => by cases h
  running := fun _ w h => by cases h
  asserted := fun h => by cases h
  alert := ⟨fun h => by (cases h), fun ⟨_, _, h, _⟩ => by simp [journalPart, opened] at h⟩

theorem taken_journalPart (k : SlotNo) : Taken journalPart.retention k ↔ k = 0 :=
  (taken_dense 1 .OPEN k).trans (by rw [Fin.ext_iff]; simp)

theorem slot_journalPart : journalPart.retention.slots.get 0 = fullSlot 0 := by
  show (tabulate _).get 0 = _
  rw [get_tabulate]; rfl

theorem journalLaw_journalPart : JournalLaw journalPart where
  journal := fun _ => shape_dense 1 .OPEN (by omega) (fun h => by cases h)
  running := fun _ =>
    { latch := rfl
      indexed := ⟨by decide, fun p h => by
        simp only [journalPart, List.mem_singleton] at h; subst h
        exact ⟨(taken_journalPart 0).2 rfl, by rw [slot_journalPart]; rfl⟩⟩
      complete := fun _ k h => by
        rw [taken_journalPart] at h; subst h; rw [slot_journalPart]; decide
      filling := fun _ k h => by
        have taken : Taken journalPart.retention k := by rw [Taken, h]; decide
        rw [taken_journalPart] at taken; subst taken; rw [slot_journalPart] at h; cases h
      guarded := fun e h _ => by
        simp only [journalPart, List.mem_singleton] at h; subst h
        exact ⟨0, by rw [slot_journalPart]; rfl, by rw [slot_journalPart]; decide⟩
      work := .idle (.inl rfl) rfl rfl rfl (.inr rfl)
      room := ⟨by decide, fun _ => by decide⟩
      flight := ⟨by decide, fun _ => by decide⟩
      read := fun h => by cases h
      cause := fun h => by cases h
      origin := fun h => by cases h }
  restart := fun w h => by cases h
  boot := fun h => by cases h
  turns := by decide
  restored := by decide

theorem witness_JournalShapeKept_step : SupplyLaw journalPart ∧ JournalLaw journalPart ∧ ∃ t, step journalPart = .next t :=
  ⟨supplyLaw_journalPart, journalLaw_journalPart, _, rfl⟩

theorem witness_EntryToOpen :
    (inState .DRAINING).ctl.pendingCommit = false ∧
    ((pendingPart [entry512]).ctl.pendingCommit = true ∧ ∃ t, CommitTaken (queued 1) t .DONE) ∧
    ((pendingPart []).ctl.pendingCommit = true ∧ ∃ t, CommitTaken opened t .DONE) :=
  ⟨rfl, ⟨rfl, _, .drains rfl rfl⟩, rfl, _, .seals rfl rfl rfl (by decide) rfl⟩


/-- The part OPEN with a faulted epoch. -/
def faultedPart : State := { opened with ctl := { opened.ctl with faulted := true } }

theorem witness_CommitRequests :
    (∃ t, CommitTaken (queued 1) t .DONE) ∧ (∃ t, CommitTaken { opened with mark := .QUALIFIED } t .DONE) ∧
    (∃ t, CommitTaken faultedPart t .DONE) ∧
    (∃ t, CommitTaken (inState .ROLLBACK) t .QUEUED) ∧ CommitTaken (inState .STALLED) (inState .STALLED) .STATE ∧
    { opened with mark := MarkLine.QUALIFIED }.mark = .QUALIFIED ∧
    { opened with ctl := { opened.ctl with autoTimer := some 0 } }.ctl.autoTimer = some 0 ∧ FrameReady .commit (framed faultedPart) :=
  ⟨⟨_, .drains rfl rfl⟩, ⟨_, .seals rfl rfl rfl (by decide) rfl⟩, ⟨_, .fails rfl rfl rfl (.inl rfl) rfl⟩, ⟨_, .queued (.inr rfl)⟩,
    .ignored (.inr (.inl rfl)), rfl, rfl, ready rfl rfl⟩


theorem witness_MarkLineAndIdleTimers :
    (opened.mark = .LOW ∧ opened.ctl.state ≠ .OFF) ∧ ((settling 0).mark = .LOW ∧ (settling 0).ctl.state = .OFF) ∧
    { opened with mark := MarkLine.HIGH }.mark ≠ .LOW ∧ { opened with mark := MarkLine.QUALIFYING }.mark ≠ .QUALIFIED ∧
    opened.ctl.autoTimer ≠ some 0 ∧ isRunning (settling 0) = false ∧ opened.window.elapsed < opened.window.length * 1000 ∧
    (FrameReady (.setConfig 7 7 191 1) (framed opened) ∧ (7 : Byte).toNat < 8 ∧ (framed opened).ctl.state = .OPEN ∧
      (1 : BitVec 16) ≠ (framed opened).cfg.autoInterval ∧ ∃ t, exec (.setConfig 7 7 191 1) (framed opened) = .next t) :=
  ⟨by decide, by decide, by decide, by decide, by decide, by decide, by decide, ready rfl rfl, by decide, rfl, by decide, _, rfl⟩


/-- The part with region 0 one strike short of its trip, at a count. -/
def striking (count : Nat) (action : TripAction) : State :=
  { windowOver with
    active := opened.active.set 0 { region0 with action := action }
    meters := opened.meters.set 0 { count := count, latch := 0, strikes := 1, trip := .CLEAR } }

theorem striking_trips (action : TripAction) : Trips (striking 8193 action) 0 := by
  cases action
  all_goals
    show _ ∧ _ ∧ _ ∧ _
    decide

theorem striking_inRange (action : TripAction) : RangeLaw (striking 8193 action) := by
  obtain ⟨h, -⟩ := witness_RangeLawKept
  constructor
  · intro i
    have k : ∀ a : TripAction, ∀ i : RegionNo, ((striking 8193 a).active.get i).base.toNat ≤ ((striking 8193 a).active.get i).limit.toNat ∧
        1 ≤ ((striking 8193 a).active.get i).writeLimit ∧ ((striking 8193 a).active.get i).writeLimit ≤ 16777215 ∧
        1 ≤ ((striking 8193 a).active.get i).qualify ∧ ((striking 8193 a).active.get i).qualify ≤ 15 := by
      intro a
      cases a <;> decide
    exact k action i
  · exact h.staged
  · intro i
    have k : ∀ a : TripAction, ∀ i : RegionNo, ((striking 8193 a).meters.get i).count ≤ 16777215 ∧
        ((striking 8193 a).meters.get i).latch ≤ 16777215 ∧
        ((striking 8193 a).meters.get i).strikes < ((striking 8193 a).active.get i).qualify ∧
        (((striking 8193 a).meters.get i).trip = .TRIPPED →
          isMetered ((striking 8193 a).active.get i) = true ∧ ((striking 8193 a).meters.get i).strikes = 0) := by
      intro a
      cases a <;> decide
    exact k action i
  · exact h.log
  · exact h.dropped
  · exact h.repeats
  · exact h.highWater
  · exact h.attempt
  · exact h.history
  · exact h.response
  · exact h.bits
  · exact h.begun

theorem witness_WindowBoundary :
    (RangeLaw windowOver ∧ isRunning windowOver = true ∧ windowOver.window.length * 1000 ≤ windowOver.window.elapsed ∧
      ∀ i, ¬ Trips windowOver i) ∧
    (RangeLaw (striking 8193 .REFUSE) ∧ (striking 8193 .REFUSE).window.length * 1000 ≤ (striking 8193 .REFUSE).window.elapsed ∧ (∃ i,
        Trips (striking 8193 .REFUSE) i) ∧
      ∀ i, Trips (striking 8193 .REFUSE) i → ((striking 8193 .REFUSE).active.get i).action = .REFUSE) ∧
    (RangeLaw (striking 8193 .ROLLBACK) ∧ (striking 8193 .ROLLBACK).ctl.state = .OPEN ∧ Trips (striking 8193 .ROLLBACK) 0 ∧
      ((striking 8193 .ROLLBACK).active.get 0).action = .ROLLBACK) ∧
    ¬ Trips (striking 8192 .ROLLBACK) 0 := by
  have o := witness_RangeLawKept.1
  refine ⟨⟨⟨o.active, o.staged, o.meters, o.log, o.dropped, o.repeats, o.highWater, o.attempt, o.history, o.response, o.bits, o.begun⟩,
      rfl, by
      decide, ?_⟩,
    ⟨striking_inRange _, by decide, ⟨0, striking_trips _⟩, ?_⟩,
    ⟨striking_inRange _, rfl, striking_trips _, by decide⟩, ?_⟩
  · have k : ∀ i : RegionNo, ¬ (isMetered (opened.active.get i) = true ∧ (opened.meters.get i).trip = .CLEAR ∧
        (opened.meters.get i).count > (opened.active.get i).writeLimit ∧
        (opened.meters.get i).strikes + 1 = (opened.active.get i).qualify) := by decide
    exact k
  · have k : ∀ i : RegionNo, ((striking 8193 .REFUSE).active.get i).action = .REFUSE := by decide
    exact fun i _ => k i
  · show ¬ (_ ∧ _ ∧ _ ∧ _)
    decide

theorem witness_AbortOrdersARollback :
    (FrameReady .abort (framed (inState .DRAINING)) ∧ (framed (inState .DRAINING)).ctl.state ≠ .OPEN) ∧
    (FrameReady .abort (framed opened) ∧ (framed opened).ctl.state = .OPEN ∧ (framed opened).capture = none) ∧
    (∀ stage words failure, FrameReady .abort (framed (capturing stage words failure)) ∧
      (framed (capturing stage words failure)).ctl.state = .OPEN ∧
      (framed (capturing stage words failure)).capture = some (captureAt stage words failure)) :=
  ⟨⟨ready rfl rfl, by decide⟩, ⟨ready rfl rfl, rfl, rfl⟩, fun _ _ _ => ⟨ready rfl rfl, rfl, rfl⟩⟩


/-- The part STALLED out of a rollback. -/
def stalledPart : State :=
  { unwinding .COMPLETE .HALTED [] with ctl := { opened.ctl with state := .STALLED, stallOrigin := some .ROLLBACK } }

theorem witness_StallCommands :
    (FrameReady .retryRestore (framed opened) ∧ FrameReady .discardJournal (framed opened) ∧ (framed opened).ctl.state ≠ .STALLED) ∧
    (FrameReady .retryRestore (framed stalledPart) ∧ FrameReady .discardJournal (framed stalledPart) ∧
      (framed stalledPart).ctl.state = .STALLED ∧ (framed stalledPart).ctl.stallOrigin = some .ROLLBACK ∧
      RetentionWrite.DISCARD ∉ (framed stalledPart).writes) :=
  ⟨⟨ready rfl rfl, ready rfl rfl, by decide⟩, ready rfl rfl, ready rfl rfl, rfl, rfl, by decide⟩

/-- The part settling, with step 3 of the restart's write asked for. -/
def restarting : State := { settling 20000 with settle := .EXPIRED, writes := [.BOOT_COUNT] }

/-- Every state has a store that a stop leaves, whatever the free value is (R1). -/
theorem storeAtStop (s : State) : ∃ store, StoreAtStop s store :=
  let ⟨r, h, _⟩ := endBegunWrites_eq (writesBegun s) s
  ⟨r, h⟩

/-- With no write asked for, a stop leaves the store as it is (R1). -/
theorem storeAtStop_none {s : State} (h : s.writes = []) : StoreAtStop s s.retention := by
  unfold StoreAtStop
  rw [h]
  exact .none _

/-- The release write of an abandoned capture, begun at the end of the allocation write (R20). -/
def releaseBegun : State := { abandoning [.RELEASE] with writeBegun := true }

/-- Its write known to have begun is made at a stop, whatever the free value is (R1, R20). -/
theorem storeAtStop_releaseBegun : StoreAtStop releaseBegun (releaseWrite 0 releaseBegun.retention) := by
  have e : ∀ n, begunWrites [.RELEASE] (max n 1) = [.RELEASE] := by
    intro n
    obtain ⟨m, hm⟩ : ∃ m, max n 1 = m + 1 := ⟨max n 1 - 1, by omega⟩
    simp [hm, begunWrites]
  show WritesMade _ (begunWrites [.RELEASE] (max _ 1)) _ _
  rw [e]
  exact .next _ _ _ _ _ (.release (captureAt .ABANDONING [] none) rfl) (.none _)

theorem witness_TheStop :
    (opened.supply = .RUN ∧ StoreAtStop opened opened.retention) ∧
    ((settling 0).supply = .SETTLING ∧ StoreAtStop (settling 0) (settling 0).retention) ∧
    ({ opened with rst := ResetLine.QUALIFIED }.rst = .QUALIFIED) ∧
    (completing.supply = .RUN ∧ ∃ store, StoreAtStop completing store) ∧
    (restarting.supply = .SETTLING ∧ ∃ store, StoreAtStop restarting store) ∧
    (releaseBegun.supply = .RUN ∧ StoreAtStop releaseBegun (releaseWrite 0 releaseBegun.retention)) :=
  ⟨⟨rfl, storeAtStop_none rfl⟩, ⟨rfl, storeAtStop_none rfl⟩, rfl, ⟨rfl, storeAtStop _⟩, ⟨rfl, storeAtStop _⟩, rfl, storeAtStop_releaseBegun⟩

theorem witness_EntryToBackup :
    (opened.supply = .RUN ∧ StoreAtStop opened opened.retention) ∧
    (restarting.supply = .SETTLING ∧ ∃ store, StoreAtStop restarting store) ∧
    { settling 0 with supply := SupplyState.FAILING }.supply = .FAILING ∧
        { settling 0 with supply := SupplyState.BACKUP }.supply = .BACKUP :=
  ⟨⟨rfl, storeAtStop_none rfl⟩, ⟨rfl, storeAtStop _⟩, rfl, rfl⟩


/-- The part stopped, in a supply state, with RST# as given. -/
def stopped (supply : SupplyState) (settle : SettleTimer) (rst : ResetLine) : State :=
  { settling 0 with supply := supply, settle := settle, rst := rst, resetInForce := rst == .ASSERTED }

theorem witness_SupplyAndResetMoves :
    (stopped .FAILING .STOPPED .HIGH).supply = .FAILING ∧ (stopped .BACKUP .STOPPED .HIGH).supply = .BACKUP ∧ opened.supply = .RUN ∧
    ((stopped .SETTLING (.RUNNING 20000) .ASSERTED).supply = .SETTLING ∧
      (stopped .SETTLING (.RUNNING 20000) .ASSERTED).settle = .RUNNING 20000 ∧
      (stopped .SETTLING (.RUNNING 20000) .ASSERTED).rst = .ASSERTED) ∧
    ((stopped .SETTLING (.RUNNING 20000) .LOW).settle = .RUNNING 20000 ∧ (stopped .SETTLING (.RUNNING 20000) .LOW).rst = .LOW) ∧
    opened.rst = .HIGH ∧ { opened with rst := ResetLine.QUALIFYING }.rst = .QUALIFYING ∧
    { opened with rst := ResetLine.QUALIFIED }.rst = .QUALIFIED ∧
    (∀ n, (settling 19999).settle = .RUNNING n → n < 20000) ∧
    ((stopped .FAILING .STOPPED .ASSERTED).rst = .ASSERTED ∧ (stopped .FAILING .STOPPED .ASSERTED).supply = .FAILING) ∧
    ((stopped .BACKUP .STOPPED .ASSERTED).rst = .ASSERTED ∧ (stopped .BACKUP .STOPPED .ASSERTED).supply = .BACKUP) ∧
    ((stopped .SETTLING (.RUNNING 19999) .ASSERTED).rst = .ASSERTED ∧ (stopped .SETTLING (.RUNNING 19999) .ASSERTED).supply = .SETTLING ∧
      (stopped .SETTLING (.RUNNING 19999) .ASSERTED).settle ≠ .EXPIRED) :=
  ⟨by decide, by decide, by decide, by decide, by decide, by decide, by decide, by decide, fun n h => by (cases h; decide), by decide, by decide,
    by decide⟩


/-- The part with RST# asserted while the supply is RUN. -/
def resetHeld (latch : Bool) (r : Retention) : State :=
  { State.reset with retention := { r with latch := latch }, rst := .ASSERTED, resetInForce := true, ctl := { State.reset.ctl with state := .OFF } }

/-- The settle time has passed with RST# not asserted, the latch as given. -/
def settled (latch : Bool) : State := { settling 20000 with retention := { initialStore with latch := latch } }

theorem witness_ColdRestart :
    (RestartBegins (settled false) .settleTimerExpiry .HIGH ∧ (settled false).retention.latch = false) ∧
    (RestartBegins (resetHeld false initialStore) .rstRelease .HIGH ∧ (resetHeld false initialStore).retention.latch = false) :=
  ⟨⟨.settled 20000 rfl rfl (by decide) (by decide), rfl⟩, .released rfl (.inl ⟨rfl, rfl⟩), rfl⟩

theorem witness_WarmRestart :
    (RestartBegins (settled true) .settleTimerExpiry .HIGH ∧ (settled true).retention.latch = true ∧
      (settled true).retention.header.state = .EMPTY) ∧
    (RestartBegins (resetHeld true (oneSlot .OPEN .FILLING)) .rstRelease .HIGH ∧
      (resetHeld true (oneSlot .OPEN .FILLING)).retention.header.state = .OPEN) ∧
    (RestartBegins (resetHeld true (oneSlot .SEALED .COMPLETE)) .rstRelease .HIGH ∧
      (resetHeld true (oneSlot .SEALED .COMPLETE)).retention.header.state = .SEALED) ∧
    (RestartBegins { settled true with rst := .ASSERTED, settle := .EXPIRED, retention := oneSlot .UNWINDING .COMPLETE } .rstRelease .HIGH ∧
      (oneSlot .UNWINDING .COMPLETE).header.state = .UNWINDING) :=
  ⟨⟨.settled 20000 rfl rfl (by decide) (by decide), rfl, rfl⟩, ⟨.released rfl (.inl ⟨rfl, rfl⟩), rfl⟩, ⟨.released rfl (.inl ⟨rfl, rfl⟩),
      rfl⟩,
    .released rfl (.inr ⟨rfl, rfl⟩), rfl⟩

theorem witness_ReadingCommands :
    FrameReady .readStatus (framed opened) ∧ FrameReady .readConfig (framed opened) ∧ FrameReady (.readRegion 15 1) (framed opened) ∧
    FrameReady (.readRegion 16 0) (framed opened) ∧ 16 ≤ (16 : Byte).toNat ∧ (15 : Byte).toNat = (15 : RegionNo).val ∧
    2 ≤ (2 : Byte).toNat ∧ FrameReady (.readEntry 255) (framed opened) ∧ FrameReady .readOutcomes (framed opened) ∧
    FrameReady .readFault (framed opened) ∧ paramCount 0xFF = none ∧ FrameReady (.unknownCode 0xFF) (framed opened) ∧
    ((oneSlot .OPEN .FILLING).slots.get 0).state ≠ .COMPLETE ∧
    (((oneSlot .OPEN .COMPLETE).slots.get 0).state = .COMPLETE ∧ ((oneSlot .OPEN .COMPLETE).slots.get 0).image.isSome = true) :=
  ⟨ready rfl rfl, ready rfl rfl, ready rfl rfl, ready rfl rfl, by decide, by decide, by decide, ready rfl rfl, ready rfl rfl, ready rfl rfl,
    rfl, ready rfl rfl, by decide, rfl, rfl⟩

theorem witness_StagingCommands :
    (FrameReady (.stageRegion 15 3 524287 524287 0 1 15 1) (framed opened) ∧ (15 : Byte).toNat = (15 : RegionNo).val ∧
      (3 : Byte) = regionKindCode .READONLY ∧ (1 : Byte) = tripActionCode .ROLLBACK ∧ (524287 : BitVec 24).toNat ≤ 524287 ∧
      1 ≤ (1 : BitVec 24).toNat ∧ (15 : Byte).toNat ≤ 15) ∧
    (FrameReady (.stageRegion 16 4 524288 524288 0 0 16 2) (framed opened) ∧ 16 ≤ (16 : Byte).toNat ∧ 4 ≤ (4 : Byte).toNat ∧
      2 ≤ (2 : Byte).toNat ∧ (0 : BitVec 24).toNat < (1 : BitVec 24).toNat ∧ 524288 ≤ (524288 : BitVec 24).toNat) ∧
    FrameReady .clearStaged (framed opened) :=
  ⟨⟨ready rfl rfl, by decide⟩, ⟨ready rfl rfl, by decide⟩, ready rfl rfl⟩

theorem witness_ClearTrip :
    FrameReady (.clearTrip 16) (framed opened) ∧ 16 ≤ (16 : Byte).toNat ∧
    (FrameReady (.clearTrip 0) (framed trippedPart) ∧ ((framed trippedPart).meters.get 0).trip = .TRIPPED) ∧
    (FrameReady (.clearTrip 15) (framed opened) ∧ ((framed opened).meters.get 15).trip = .CLEAR) :=
  ⟨ready rfl rfl, by decide, ⟨ready rfl rfl, by decide⟩, ready rfl rfl, by decide⟩

theorem witness_EventCommands :
    (FrameReady (.setEnables 0x0FFF) (framed opened) ∧ (0x0FFF : BitVec 16).toNat < 4096) ∧
    (FrameReady (.setEnables 0x1000) (framed opened) ∧ 4096 ≤ (0x1000 : BitVec 16).toNat) ∧ FrameReady .takeEvents (framed State.reset) :=
  ⟨⟨ready rfl rfl, by decide⟩, ⟨ready rfl rfl, by decide⟩, ready rfl rfl⟩

theorem witness_ConfigAndReportCommands :
    (FrameReady (.setConfig 7 7 0xFF 0) (framed opened) ∧ (7 : Byte).toNat = (7 : Fin 8).val) ∧
    (FrameReady (.setConfig 8 0 0 1) (framed opened) ∧ 8 ≤ (8 : Byte).toNat) ∧
    (FrameReady (.takeRefusals 1) (framed opened) ∧ FrameReady (.takeRefusals 4) (framed opened) ∧ 1 ≤ (1 : Byte).toNat ∧
        (4 : Byte).toNat ≤ 4) ∧
    (FrameReady (.takeRefusals 5) (framed opened) ∧ 5 ≤ (5 : Byte).toNat) ∧ FrameReady .clearFault (framed opened) :=
  ⟨⟨ready rfl rfl, by decide⟩, ⟨ready rfl rfl, by decide⟩, ⟨ready rfl rfl, ready rfl rfl, by decide, by decide⟩, ⟨ready rfl rfl, by decide⟩,
    ready rfl rfl⟩

end Sys2Proof.Tests
end

section
/-! SUPPORT. The retention writes that a stop makes, as one function of the store, and what a command can make of the store (O10, O51). -/

namespace Sys2Proof.Machine

variable {s t : State}

/-- The store after retention writes made one after another with the values that the blocks of s give them (R1). -/
def storeAfter (s : State) (ws : List RetentionWrite) (r : Retention) : Retention :=
  ws.foldl (fun r w => writeEffect { s with retention := r } w r) r

@[simp] theorem storeAfter_nil (s : State) (r : Retention) : storeAfter s [] r = r := rfl

@[simp] theorem storeAfter_cons (s : State) (w : RetentionWrite) (ws : List RetentionWrite) (r : Retention) :
    storeAfter s (w :: ws) r = storeAfter s ws (writeEffect { s with retention := r } w r) := rfl

/-- A retention write made is the write's effect on the store. -/
theorem writeMade_iff {w : RetentionWrite} {r : Retention} : WriteMade s w r ↔ writeEffect s w s.retention = r :=
  ⟨writeEffect_of_made, fun e => e ▸ writeMade s w⟩

/-- Writes made one after another leave one store. -/
theorem writesMade_iff {ws : List RetentionWrite} {r r' : Retention} : WritesMade s ws r r' ↔ storeAfter s ws r = r' := by
  constructor
  · intro h
    induction h with
    | none r => rfl
    | next w ws r r₁ r₂ m _ ih =>
      have e : writeEffect { s with retention := r } w r = r₁ := writeMade_iff.1 m
      rw [storeAfter_cons, e, ih]
  · induction ws generalizing r with
    | nil => rintro rfl; exact .none r
    | cons w ws ih => exact fun e => .next w ws r _ r' (writeMade _ w) (ih e)

/-- The begun writes of a stop change the store alone. -/
theorem endBegunWrites_storeAfter (n : Nat) (s : State) :
    endBegunWrites n s = { s with retention := storeAfter s (begunWrites s.writes n) s.retention } := by
  obtain ⟨r, made, e⟩ := endBegunWrites_eq n s
  rw [e, writesMade_iff.1 made]

/-- What the begun writes make of the store does not depend on the supply, the reset, the counter of free values and the queue. -/
theorem storeAfter_aside (s : State) (supply : SupplyState) (settle : SettleTimer) (rst : ResetLine) (force : Bool) (free : Nat)
    (pending : List Instr) (ws : List RetentionWrite) (r : Retention) :
    storeAfter { s with supply := supply, settle := settle, rst := rst, resetInForce := force, free := free, pending := pending } ws r =
      storeAfter s ws r := rfl

/-- A stop leaves in the store what the begun writes make of it. -/
theorem stopPart_retention (n : Nat) (s : State) :
    (stopPart n s).retention = storeAfter s (begunWrites s.writes n) s.retention := by
  show (answerHost .ERR [] (some (stopReason (endBegunWrites n s))) (endBegunWrites n s)).retention = _
  rw [(answered_answerHost _ _ _ _).retention, endBegunWrites_storeAfter]

/-- Each write moves the committed epoch number as its rule says (R4). -/
theorem writeEffect_epoch (s : State) (w : RetentionWrite) (r : Retention) :
    (writeEffect s w r).header.epoch = epochAfter r.header.epoch w := by
  cases w
  case ALLOCATION =>
    cases h : s.capture with
    | none => simp [writeEffect, h, epochAfter]
    | some job => simp only [writeEffect, h, allocationWrite]; cases lowestFree r <;> rfl
  case COMPLETION => cases h : s.capture <;> simp [writeEffect, h, epochAfter, completionWrite, putSlot]
  case RELEASE => cases h : s.capture <;> simp [writeEffect, h, epochAfter, releaseWrite, putSlot]
  case RETIRE =>
    simp only [writeEffect, retireWrite]
    cases newestSlot r with
    | none => rfl
    | some k => dsimp only; split <;> rfl
  all_goals rfl

/-- Writes made one after another move the committed epoch number one after another (R4). -/
theorem storeAfter_epoch (s : State) (ws : List RetentionWrite) (r : Retention) :
    (storeAfter s ws r).header.epoch = ws.foldl epochAfter r.header.epoch := by
  induction ws generalizing r with
  | nil => rfl
  | cons w ws ih => rw [storeAfter_cons, ih, writeEffect_epoch]; rfl

/-- A trusted store that has changed carries the epoch number that its writes give it (R4). -/
theorem RetentionChange.epoch {c : Instr} {ws : List RetentionWrite} {r : Retention} (h : RetentionChange s c ws r)
    (latch : r.latch = true) : r.header.epoch = ws.foldl epochAfter s.retention.header.epoch := by
  cases h with
  | ended w _ _ m => rw [← writeMade_iff.1 m, writeEffect_epoch]; rfl
  | stopped _ _ _ _ _ m => rw [← writesMade_iff.1 m, storeAfter_epoch]
  | lost _ _ _ l => rw [l] at latch; cases latch

/-- What a command does to the store does not depend on the commands that wait behind it. -/
theorem RetentionChange.withPending {c : Instr} {p : List Instr} {ws : List RetentionWrite} {r : Retention}
    (h : RetentionChange { s with pending := p } c ws r) : RetentionChange s c ws r := by
  cases h with
  | ended w _ head m =>
    have same : writeEffect { s with pending := p } w s.retention = writeEffect s w s.retention := rfl
    exact .ended w r head (writeMade_iff.2 (same.symm.trans (writeMade_iff.1 m)))
  | stopped _ _ _ stops begun m =>
    refine .stopped c ws r stops begun (writesMade_iff.2 ?_)
    rw [← writesMade_iff.1 m]
    rfl
  | lost _ _ row l => exact .lost c r row l

/-- A stop is a change of the store by the writes that have begun (R1, log 8). -/
theorem stopped_change {c : Instr} (stops : StopsPart c) :
    RetentionChange s c (begunWrites s.writes (writesBegun s)) (storeAfter s (begunWrites s.writes (writesBegun s)) s.retention) :=
  .stopped c _ _ stops rfl (writesMade_iff.2 rfl)

/-- The part enters BACKUP with its store as it was. -/
theorem enterBackup_keeps (s : State) : (enterBackup false s).retention = s.retention := rfl

/-- What the rows of the supply and of RST# make of the store (R1, R155, R156). -/
theorem supplyRow_retention {c : Instr} (hc : isSupplyRow c = true) (h : exec c s = .next t) :
    t.retention = s.retention ∨ ∃ ws, RetentionChange s c ws t.retention := by
  cases c <;> first | exact absurd hc Bool.noConfusion | cases h
  case vddFail =>
    have stop : RetentionChange s .vddFail (begunWrites s.writes (writesBegun s)) (enterFailing (writesBegun s) (useFree s)).retention := by
      rw [enterFailing, stopPart_retention]
      exact stopped_change (.inl rfl)
    split
    · exact .inr ⟨_, stop⟩
    · exact .inr ⟨_, stop⟩
    · exact .inl rfl
    · exact .inl rfl
  case vddSwitchOver low =>
    cases low with
    | true =>
      split
      · exact .inr ⟨_, .lost _ _ (.inl rfl) rfl⟩
      · exact .inr ⟨_, .lost _ _ (.inl rfl) rfl⟩
      · exact .inr ⟨_, .lost _ _ (.inl rfl) rfl⟩
      · exact .inl rfl
    | false =>
      have stop : RetentionChange s (.vddSwitchOver false) (begunWrites s.writes (writesBegun s))
          (enterBackup false (enterFailing (writesBegun s) (useFree s))).retention := by
        rw [enterBackup_keeps, enterFailing, stopPart_retention]
        exact stopped_change (.inr (.inl rfl))
      split
      · exact .inr ⟨_, stop⟩
      · exact .inr ⟨_, stop⟩
      · exact .inl rfl
      · exact .inl rfl
  case vddGood => split <;> exact .inl rfl
  case settleTimerExpiry =>
    unfold settleEnds
    split
    · split <;> exact .inl rfl
    · exact .inl rfl
  case vbkLow =>
    split
    · exact .inr ⟨_, .lost _ _ (.inr (.inl rfl)) rfl⟩
    · exact .inl rfl
  case firstPower => exact .inr ⟨_, .lost _ _ (.inr (.inr rfl)) rfl⟩
  case rstAssert =>
    split
    · refine .inr ⟨begunWrites s.writes (writesBegun s), ?_⟩
      rw [stopPart_retention]
      exact stopped_change (.inr (.inr rfl))
    · exact .inl rfl
  case rstRelease =>
    unfold releaseReset
    split
    case h_5 => split <;> exact .inl rfl
    all_goals exact .inl rfl
  case rstFallingEdge => split <;> exact .inl rfl

/-- The take point of a setting leaves the store alone. -/
theorem setting_retention {i : Instr} (h : isSetting i = true) (s : State) : (linkAct i s).1.retention = s.retention := by
  cases i <;> first | exact absurd h Bool.noConfusion | skip
  case stageRegion index kind base limit metered writeLimit qualify action =>
    show (actStageRegion index kind base limit metered writeLimit qualify action s).1.retention = _
    unfold actStageRegion
    split <;> rfl
  case clearTrip a =>
    show (actClearTrip a s).1.retention = _
    unfold actClearTrip
    split
    · rfl
    · split <;> rfl
  case setConfig a b c d =>
    show (actSetConfig a b c d s).1.retention = _
    unfold actSetConfig
    split <;> rfl
  case setEnables a =>
    show (actSetEnables a s).1.retention = _
    unfold actSetEnables
    split <;> rfl
  case takeRefusals a =>
    show (actTakeRefusals a s).1.retention = _
    unfold actTakeRefusals
    split <;> rfl
  all_goals rfl

/-- What a command can make of the store. -/
theorem exec_retention {c : Instr} (h : exec c s = .next t) : t.retention = s.retention ∨ ∃ ws, RetentionChange s c ws t.retention := by
  obtain ⟨b, t', e, base, work⟩ := exec_shape c s
  obtain rfl : t' = t := by rw [h] at e; cases e; rfl
  have key : b.retention = s.retention ∨ ∃ ws, RetentionChange s c ws b.retention := by
    cases base with
    | write w r ws ix head m => exact .inr ⟨[w], .ended w r head m⟩
    | sealing head => exact .inr ⟨[.SEAL], .ended .SEAL _ head .sealing⟩
    | restarted w r head m => exact .inr ⟨[w], .ended w r head m⟩
    | supply _ _ run row => exact supplyRow_retention row run
    | setting _ i l hi => exact .inl (setting_retention hi s)
    | _ => exact .inl rfl
  rw [work.retention]
  exact key

/-- The access in flight, dropped, leaves its tag owed (R76). -/
theorem dropAccess_eq (p : MemoryPort) : dropAccess p =
    { inFlight := none, timer := if p.inFlight.isSome then 0 else p.timer, nextTag := p.nextTag
      owed := match p.inFlight with
        | some a => p.owed.set a.tag.toNat true a.tag.isLt
        | none => p.owed } := by
  obtain ⟨access, _, _, _⟩ := p
  cases access <;> rfl

/-- A qualification of MARK that stands is dropped to a high level (R32). -/
theorem dropMark_eq (m : MarkLine) : dropMark m = if m = .LOW then .LOW else .HIGH := by cases m <;> rfl

/-- A qualification of RST# that stands is dropped to a low level (R164). -/
theorem dropReset_eq (r : ResetLine) : dropReset r = if r = .QUALIFYING ∨ r = .QUALIFIED then .LOW else r := by cases r <;> rfl

/-- An answer to the request in progress, if there is one, as one update. -/
theorem answerHost_eq (status : Status) (data : List Byte) (reason : Option Reason) (s : State) :
    answerHost status data reason s =
      { s with host := none, responses := s.responses ++ (s.host.map fun job =>
        ({ status := status, data := data, tag := job.tag, reason := reason } : HostResponse)).toList } := by
  cases h : s.host with
  | none =>
    rw [answerHost_none _ _ _ h]
    show s = { s with host := none, responses := s.responses ++ [] }
    rw [List.append_nil, ← h]
  | some job => rw [answerHost_some _ _ _ h]; rfl

/-- A stop with the part no longer running, as one update: the store as the begun writes leave it, every volatile block stopped (R157,
R159). -/
theorem stopPart_eq (n : Nat) (h : isRunning s = false) :
    stopPart n s = stoppedBy (storeAfter s (begunWrites s.writes n) s.retention) (stopReason s) s := by
  unfold stopPart
  rw [endBegunWrites_storeAfter]
  generalize storeAfter s (begunWrites s.writes n) s.retention = r
  have quiet : ∀ flags enables : BitVec 12, alertDrive (isRunning s) flags enables = .RELEASED := by rw [h]; exact fun _ _ => rfl
  simp only [answerHost_eq, dropAccess_eq, dropMark_eq, dropReset_eq, withEvents]
  exact congrArg (fun a => { stoppedBy r (stopReason s) s with events := { s.events with alert := a } }) (quiet _ _)

end Sys2Proof.Machine

open Sys2Proof Sys2Proof.Machine

/-- Settles O10, from what a command can make of the store; the epoch number follows from the writes made. -/
theorem retentionChangesOnlyByItsWrites : Obligations.RetentionChangesOnlyByItsWrites := by
  intro s t h
  unfold step at h
  split at h
  · cases h
    exact .inl rfl
  · next c rest hp =>
    rcases exec_retention h with same | ⟨ws, change⟩
    · exact .inl same
    · exact .inr ⟨c, rest, ws, hp, change.withPending, change.withPending.epoch⟩

/-- Settles O51: the stop is one update, and the store is what the writes that have begun make of it. -/
theorem theStop : Obligations.TheStop := by
  intro s store made
  obtain rfl : storeAfter s (begunWrites s.writes (writesBegun s)) s.retention = store := writesMade_iff.1 made
  refine ⟨fun supply => ?_, fun rst => ?_⟩
  · have row : exec .vddFail s = .next (enterFailing (writesBegun s) (useFree s)) := by
      show execVddFail s = _
      unfold execVddFail
      rcases supply with e | e <;> rw [e]
    rw [row, enterFailing, stopPart_eq _ rfl]
    rfl
  · have row : exec .rstAssert s = .next (stopPart (writesBegun s) { useFree s with rst := .ASSERTED, resetInForce := true }) := by
      show execRstAssert s = _
      unfold execRstAssert
      rw [if_pos rst]
    rw [row, stopPart_eq _ (by simp [isRunning])]
    rfl

end

section
/-! SUPPORT. Each retention write of section 1.5, and each of a restart, keeps the shape of the journal (O44). -/

namespace Sys2Proof.Machine

variable {r : Retention}

/-- The header states in which an epoch is open. -/
def HeaderOpen (r : Retention) : Prop := r.header.state = .EMPTY ∨ r.header.state = .OPEN

theorem HeaderOpen.ne_unwinding (h : HeaderOpen r) : r.header.state ≠ .UNWINDING := by
  rcases h with e | e <;> rw [e] <;> simp

/-- With a slot left, the allocation write fills slot count, and EMPTY becomes OPEN (R6, R10). -/
theorem allocationWrite_dense (h : JournalShape r) (hc : r.header.count < 256) (line : Line) (region : RegionNo) :
    allocationWrite line region r =
      { putSlot r ⟨r.header.count, hc⟩ { state := .FILLING, line := line, region := region, seq := r.header.nextSeq, image := none } with
        header := { r.header with
          state := if r.header.state = .EMPTY then .OPEN else r.header.state
          count := r.header.count + 1, nextSeq := r.header.nextSeq + 1 }
        history := r.history } := by
  unfold allocationWrite
  rw [lowestFree_dense h hc]
  rfl

theorem shape_allocation (h : JournalShape r) (line : Line) (region : RegionNo) (ho : HeaderOpen r) (hc : r.header.count < 256)
    (new : ∀ k, Taken r k → (r.slots.get k).line ≠ line) : JournalShape (allocationWrite line region r) := by
  have next := h.next ho.ne_unwinding
  have opened : (if r.header.state = .EMPTY then HeaderState.OPEN else r.header.state) = .OPEN := by
    rcases ho with e | e <;> simp [e]
  rw [allocationWrite_dense h hc, opened]
  refine shape_put h _ _ _ _ hc (fun j => ?_) (fun e => by cases e) (fun _ => next) (fun _ j _ hj => new j hj) (by simp) (fun _ => ?_)
    (fun e => by cases e) ?_
  · rw [h.dense]
    split
    · next e => simp [e]
    · next e =>
      have : j.val ≠ r.header.count := fun x => e (Fin.ext x)
      simp only
      omega
  · show r.header.nextSeq + 1 = BitVec.ofNat 8 (r.header.count + 1)
    rw [next, BitVec.ofNat_add]
    rfl
  · simp [cause_none h ho.ne_unwinding]

theorem shape_completion (h : JournalShape r) (k : SlotNo) (image : Image) (ho : r.header.state = .OPEN)
    (filling : (r.slots.get k).state = .FILLING) : JournalShape (completionWrite k image r) := by
  have taken : Taken r k := by rw [Taken, filling]; simp
  have unwinds : r.header.state ≠ .UNWINDING := by rw [ho]; simp
  refine shape_put h k _ r.header r.history h.bound (fun j => ?_) (fun e => by cases e) (fun _ => h.seq k taken)
    (fun _ j ne tj e => ne (h.distinct j k tj taken e)) (by simp) (fun _ => h.next unwinds) h.empty h.cause
  split
  · next e => subst e; simpa using (h.dense j).1 taken
  · exact h.dense j

theorem shape_releaseWrite (h : JournalShape r) (k : SlotNo) (ho : r.header.state = .OPEN) (newest : k.val + 1 = r.header.count) :
    JournalShape (releaseWrite k r) := by
  have next := h.next (by rw [ho]; simp)
  refine shape_release h k newest _ r.history rfl (fun _ => ?_) (fun e => ?_) h.cause
  · show r.header.nextSeq - 1 = BitVec.ofNat 8 (r.header.count - 1)
    rw [next, ← newest, Nat.add_sub_cancel, BitVec.ofNat_add]
    exact BitVec.add_sub_cancel _ _
  · rw [show r.header.state = .EMPTY from e] at ho
    cases ho

theorem shape_seal (h : JournalShape r) (uptime : BitVec 32) (ho : HeaderOpen r) : JournalShape (sealWrite uptime r) :=
  shape_hd h _ _ rfl (fun _ => h.next ho.ne_unwinding) (fun e => by cases e) (by simp [cause_none h ho.ne_unwinding])

theorem shape_clear (r : Retention) : JournalShape (clearWrite r) := shape_empty _ _ _ rfl rfl (by simp) rfl

theorem shape_mark (h : JournalShape r) (cause : UnwindCause) : JournalShape (unwindingMark cause r) :=
  shape_hd h _ _ rfl (fun e => absurd rfl e) (fun e => by cases e) (by simp)

/-- The retire write frees the slot at count-1, and the last one ends the unwind (R15). -/
theorem retireWrite_newest (h : JournalShape r) {k : SlotNo} (newest : k.val + 1 = r.header.count) (kind : OutcomeKind) (entries : Nat)
    (uptime : BitVec 32) :
    retireWrite kind entries uptime r =
      if r.header.count = 1 then
        unwindEnded (endingOutcome kind entries uptime r) { putSlot r k freeSlot with header := { r.header with count := r.header.count - 1 } }
      else { putSlot r k freeSlot with header := { r.header with count := r.header.count - 1 } } := by
  unfold retireWrite
  rw [newest_eq h k newest]

theorem shape_retire (h : JournalShape r) (kind : OutcomeKind) (entries : Nat) (uptime : BitVec 32) (unwinds : r.header.state = .UNWINDING)
    (hc : 1 ≤ r.header.count) : JournalShape (retireWrite kind entries uptime r) := by
  obtain ⟨k, -, newest⟩ := newest_dense h (by omega)
  rw [retireWrite_newest h newest]
  split
  · next last =>
    have zero : r.header.count - 1 = 0 := by omega
    refine shape_release h k newest _ _ rfl (fun _ => ?_) (fun _ => zero) (by simp)
    show (0 : BitVec 8) = BitVec.ofNat 8 (r.header.count - 1)
    rw [zero]
    rfl
  · refine shape_release h k newest _ _ rfl (fun e => absurd unwinds e) (fun e => ?_) h.cause
    rw [show r.header.state = .EMPTY from e] at unwinds
    cases unwinds

theorem shape_finish (h : JournalShape r) (kind : OutcomeKind) (entries : Nat) (uptime : BitVec 32) (hc : r.header.count = 0) :
    JournalShape (finishWrite kind entries uptime r) :=
  shape_hd h _ _ rfl (fun _ => by show (0 : BitVec 8) = BitVec.ofNat 8 r.header.count; rw [hc]; rfl) (fun _ => hc) (by simp)

theorem shape_discard (r : Retention) (uptime : BitVec 32) : JournalShape (discardWrite uptime r) :=
  shape_empty _ _ _ rfl rfl (fun e => by cases e) rfl

theorem shape_bootCount (h : JournalShape r) : JournalShape (bootCountWrite r) := shape_hd h _ _ rfl h.next h.empty h.cause

theorem shape_initialisation (r : Retention) : JournalShape (initialisationWrite r) := shape_empty _ _ _ rfl rfl (by simp) rfl

/-- The slots of a store after the newest one is freed (R12, R15). -/
theorem taken_freed {k : SlotNo} {hd : Header} {hist : List OutcomeRecord} {j : SlotNo} :
    Taken { putSlot r k freeSlot with header := hd, history := hist } j ↔ j ≠ k ∧ Taken r j := by
  unfold Taken
  by_cases e : k = j
  · subst e
    simp only [get_put_eq]
    simp [freeSlot]
  · simp only [get_put_ne r k j freeSlot e]
    exact ⟨fun t => ⟨Ne.symm e, t⟩, fun t => t.2⟩

end Sys2Proof.Machine

end

section
/-! SUPPORT. The law of a running part's journal over the ends of the retention writes (O44). -/

namespace Sys2Proof.Machine

variable {s t : State}

/-- The retention write in progress, with what the law of the journal says while it is: one case per write (section 1.5). -/
inductive Writing (s : State) : RetentionWrite → Prop where
  | allocation (job : CaptureJob) (c : s.capture = some job)
      (w : job.stage = .ALLOCATING ∧ s.writes = [.ALLOCATION] ∨
        job.stage = .ABANDONING ∧ s.ctl.state = .ROLLBACK ∧ s.writes = [.ALLOCATION, .RELEASE])
      (new : NewLine s job) (e : job.words = []) (host : HostCaptures s) : Writing s .ALLOCATION
  | completion (job : CaptureJob) (c : s.capture = some job) (w : s.writes = [.COMPLETION]) (f : Filled s job) (host : HostCaptures s) :
    Writing s .COMPLETION
  | release (job : CaptureJob) (c : s.capture = some job)
      (st : job.stage = .READING ∧ s.arbiter.grant ≠ some .CAPTURE ∨ job.stage = .ABANDONING ∧ s.ctl.state = .ROLLBACK)
      (w : s.writes = [.RELEASE]) (f : Filled s job) (e : job.words.length < 8) (host : HostCaptures s) : Writing s .RELEASE
  | sealing (p : s.ctl.state = .DRAINING) (q : s.queue = []) (c : s.capture = none) (r : s.restore.state = .IDLE) (w : s.writes = [.SEAL])
      (h : HeaderOpen s.retention) : Writing s .SEAL
  | clearing (q : s.queue = []) (c : s.capture = none) (r : s.restore.state = .IDLE) (w : s.writes = [.CLEAR]) : Writing s .CLEAR
  | marking (p : s.ctl.state = .ROLLBACK ∨ s.ctl.state = .RECOVERY) (q : s.queue = []) (c : s.capture = none) (w : s.writes = [.MARK])
      (h : HeaderOpen s.retention) : Writing s .MARK
  | retiring (p : s.ctl.state = .ROLLBACK ∨ s.ctl.state = .RECOVERY) (q : s.queue = []) (c : s.capture = none)
      (h : s.retention.header.state = .UNWINDING) (some : 1 ≤ s.retention.header.count)
      (n : s.restore.restored + s.retention.header.count ≤ 257) (w : s.writes = [.RETIRE]) : Writing s .RETIRE
  | finishing (q : s.queue = []) (c : s.capture = none) (none : s.retention.header.count = 0) (w : s.writes = [.FINISH]) :
    Writing s .FINISH
  | discarding (q : s.queue = []) (c : s.capture = none) (w : s.writes = [.DISCARD] ∨ ∃ x, s.writes = [.DISCARD, x]) : Writing s .DISCARD

/-- The write in progress in a running part is asked for by what works on the journal. -/
theorem writing_of (h : Work s) {w : RetentionWrite} (hw : s.writes.head? = some w) : Writing s w := by
  cases h with
  | idle p c e => rw [e] at hw; cases hw
  | capturing job p c r h l x =>
    cases x with
    | allocating st e n words host => rw [e] at hw; cases hw; exact .allocation job c (.inl ⟨st, e⟩) n words host
    | waiting _ e => rw [e] at hw; cases hw
    | reading _ e => rw [e] at hw; cases hw
    | completing _ e _ f _ host => rw [e] at hw; cases hw; exact .completion job c e f host
    | failing st e g f words host => rw [e] at hw; cases hw; exact .release job c (.inl ⟨st, g⟩) e f words host
    | abandonedEarly st o e n words host => rw [e] at hw; cases hw; exact .allocation job c (.inr ⟨st, o, e⟩) n words host
    | abandoned st o e f words host => rw [e] at hw; cases hw; exact .release job c (.inr ⟨st, o⟩) e f words host
    | released _ _ e => rw [e] at hw; cases hw
  | sealing p q c r e h => rw [e] at hw; cases hw; exact .sealing p q c r e h
  | clearing p q c r e h => rw [e] at hw; cases hw; exact .clearing q c r e
  | marking p q c r e h => rw [e] at hw; cases hw; exact .marking p q c e h
  | restoring k q c h p w =>
    rcases w with e | e <;> rw [e] at hw <;> cases hw
    exact .discarding q c (.inl e)
  | retiring x q c h p r k w =>
    rcases w with e | e <;> rw [e] at hw <;> cases hw
    · rcases k with ⟨rfl, hc, hn⟩ | ⟨rfl, hc⟩
      · exact .retiring p q c h hc hn e
      · exact .finishing q c hc e
    · exact .discarding q c (.inr ⟨x, e⟩)

/-- A running part asks for no restart write (R161). -/
theorem Work.no_restart (h : Work s) : ∀ w ∈ s.writes, isRestartWrite w = false := by
  have of : ∀ ws : List RetentionWrite, s.writes = ws → (∀ w ∈ ws, isRestartWrite w = false) → ∀ w ∈ s.writes, isRestartWrite w = false :=
    fun _ e k => e ▸ k
  cases h with
  | idle p c w => exact of _ w (by decide)
  | capturing job p c r h l x => cases x <;> exact of _ ‹s.writes = _› (by decide)
  | sealing p q c r w => exact of _ w (by decide)
  | clearing p q c r w => exact of _ w (by decide)
  | marking p q c r w => exact of _ w (by decide)
  | restoring k q c h p w => rcases w with w | w <;> exact of _ w (by decide)
  | retiring x q c h p r k w =>
    rcases k with ⟨rfl, -⟩ | ⟨rfl, -⟩ <;> rcases w with w | w <;> exact of _ w (by decide)

/-- The law of the journal of a running part is the law over steps. -/
theorem Lawful.journalLaw (h : Lawful s) : JournalLaw s where
  journal _ := h.shape
  running _ := h.law
  restart w hw e := by rw [h.law.work.no_restart w hw] at e; cases e
  boot hw := by have := h.law.work.no_restart _ hw; cases this
  turns := h.turns
  restored := h.restored

/-- The law over steps is the law of the journal while the part runs. -/
theorem JournalLaw.lawful (h : JournalLaw s) (run : isRunning s = true) : Lawful s :=
  ⟨h.running run, h.journal (h.running run).latch, h.turns, h.restored⟩

/-- A host request that waits for its capture is no granted read. -/
theorem Lawful.no_read (h : Lawful s) (c : HostCaptures s) : s.arbiter.grant ≠ some .HOST_READ := by
  intro g
  obtain ⟨req, e, st⟩ := c
  obtain ⟨req', e', st'⟩ := h.law.read g
  rw [e] at e'
  cases e'
  rw [st] at st'
  cases st'

/-- A capture's slot is taken, so the header is OPEN (R3). -/
theorem Filled.header_open {job : CaptureJob} (f : Filled s job) (h : Lawful s) (ho : HeaderOpen s.retention) :
    s.retention.header.state = .OPEN := by
  rcases ho with e | e
  · have := h.shape.empty e
    have := f.2.2
    omega
  · exact e

/-! The allocation write. -/

section allocation

variable {r : Retention} (shape : JournalShape r) (hc : r.header.count < 256) (line : Line) (region : RegionNo)
include shape

theorem allocation_get_new : (allocationWrite line region r).slots.get ⟨r.header.count, hc⟩ =
    { state := .FILLING, line := line, region := region, seq := r.header.nextSeq, image := none } := by
  rw [allocationWrite_dense shape hc]
  exact get_put_eq r _ _

theorem allocation_get_old {j : SlotNo} (h : j ≠ ⟨r.header.count, hc⟩) : (allocationWrite line region r).slots.get j = r.slots.get j := by
  rw [allocationWrite_dense shape hc]
  exact get_put_ne r _ j _ (Ne.symm h)

include hc

theorem allocation_count : (allocationWrite line region r).header.count = r.header.count + 1 := by rw [allocationWrite_dense shape hc]

theorem allocation_latch : (allocationWrite line region r).latch = r.latch := by
  rw [allocationWrite_dense shape hc]
  rfl

theorem allocation_open (h : HeaderOpen r) : (allocationWrite line region r).header.state = .OPEN := by
  rw [allocationWrite_dense shape hc]
  show (if r.header.state = .EMPTY then HeaderState.OPEN else r.header.state) = .OPEN
  rcases h with e | e <;> simp [e]

end allocation

/-- The allocation write has filled the capture's slot (R10, R18). -/
theorem lawful_allocated (h : Lawful s) {job : CaptureJob} (c : s.capture = some job)
    (w : job.stage = .ALLOCATING ∧ s.writes = [.ALLOCATION] ∨
      job.stage = .ABANDONING ∧ s.ctl.state = .ROLLBACK ∧ s.writes = [.ALLOCATION, .RELEASE])
    (new : NewLine s job) (words : job.words = []) (host : HostCaptures s) (hc : s.retention.header.count < 256) (begun : Bool) :
    Lawful { s with
      retention := allocationWrite job.line job.region s.retention, writes := s.writes.tail, writeBegun := begun
      index := s.index ++ [(job.line, ⟨s.retention.header.count, hc⟩)]
      capture := some { job with stage := allocatedStage job.stage, slot := ⟨s.retention.header.count, hc⟩ } } := by
  obtain ⟨p, r, hopen, l, -⟩ := h.law.work.capture c
  have slot : job.slot = ⟨s.retention.header.count, hc⟩ := Fin.ext new.1
  have isNew := allocation_get_new h.shape hc job.line job.region
  have isOld := fun j => allocation_get_old (j := j) h.shape hc job.line job.region
  have count := allocation_count h.shape hc job.line job.region
  have opened := allocation_open h.shape hc job.line job.region hopen
  have free : ¬ Taken s.retention ⟨s.retention.header.count, hc⟩ := by rw [h.shape.dense]; simp
  have old : ∀ j, Taken s.retention j → (allocationWrite job.line job.region s.retention).slots.get j = s.retention.slots.get j :=
    fun j tj => isOld j (fun e => free (e ▸ tj))
  refine
    { law :=
      { latch := (allocation_latch h.shape hc job.line job.region).trans h.law.latch
        indexed := ?_, complete := fun x k hk => ?_, filling := fun x k hk => ?_, guarded := fun e he hg => ?_
        work := .capturing _ p rfl r (.inr opened) l ?_
        room := h.law.room, flight := h.law.flight, read := h.law.read
        cause := fun x _ => h.law.cause x (HeaderOpen.ne_unwinding hopen), origin := h.law.origin }
      shape := shape_allocation h.shape _ _ hopen hc new.2, turns := h.turns, restored := h.restored }
  · have fresh : (job.line, (⟨s.retention.header.count, hc⟩ : SlotNo)) ∉ s.index := fun m => free (h.law.indexed.2 _ m).1
    refine ⟨List.nodup_append.2 ⟨h.law.indexed.1, by simp, ?_⟩, fun e he => ?_⟩
    · intro a ha b hb
      rw [List.mem_singleton.1 hb]
      rintro rfl
      exact fresh ha
    · rcases List.mem_append.1 he with he | he
      · obtain ⟨te, le⟩ := h.law.indexed.2 e he
        simp only [Taken]
        rw [old _ te]
        exact ⟨te, le⟩
      · rw [List.mem_singleton.1 he]
        simp [Taken, isNew]
  · by_cases e : k = ⟨s.retention.header.count, hc⟩
    · subst e
      simp [isNew]
    · simp only [Taken] at hk
      rw [isOld k e] at hk
      simp only [isOld k e]
      exact List.mem_append_left _ (h.law.complete x k hk)
  · by_cases e : k = ⟨s.retention.header.count, hc⟩
    · exact ⟨_, rfl, e.symm⟩
    · simp only [isOld k e] at hk
      obtain ⟨job', hj, hs⟩ := h.law.filling x k hk
      rw [c] at hj
      cases hj
      exact absurd (hs.symm.trans slot) e
  · obtain ⟨k, hk, hl⟩ := h.law.guarded e he hg
    have tk : Taken s.retention k := by rw [Taken, hk]; simp
    refine ⟨k, ?_⟩
    simp only [old k tk]
    exact ⟨hk, hl⟩
  · have filled : ∀ u : State, u.retention = allocationWrite job.line job.region s.retention → ∀ st,
        Filled u { job with stage := st, slot := ⟨s.retention.header.count, hc⟩ } := by
      intro u e st
      simp [Filled, e, isNew, count]
    rcases w with ⟨st, e⟩ | ⟨st, o, e⟩
    · exact .waiting (by simp [st, allocatedStage]) (by simp [e]) (filled _ rfl _) words host
    · exact .abandoned (by simp [st, allocatedStage]) o (by simp [e]) (filled _ rfl _) (by simp [words]) host

theorem lawful_highWaterCheck (h : Lawful s) : Lawful (highWaterCheck s) := by
  unfold highWaterCheck
  split
  · exact lawful_setEvent _ h
  · exact h

/-- The end of a write keeps the law where it does while that write is in progress. -/
theorem lawful_whenWriteEnds {w : RetentionWrite} {f : State → State} (h : Lawful s) (k : Writing s w → Lawful (f (endWrite s))) :
    Lawful (whenWriteEnds w f s) := by
  unfold whenWriteEnds
  split
  · next hw => exact k (writing_of h.law.work hw)
  · exact h

theorem lawful_allocationWriteEnd (h : Lawful s) : Lawful (whenWriteEnds .ALLOCATION allocationEnds s) := by
  refine lawful_whenWriteEnds h fun x => ?_
  cases x with
  | allocation job c w new words host =>
    have hc : s.retention.header.count < 256 := new.1 ▸ job.slot.isLt
    have e : allocationEnds (endWrite s) = arbitrate
        { highWaterCheck (indexGain job.line ⟨s.retention.header.count, hc⟩ (makeWrite .ALLOCATION (endWrite s))) with
          capture := some { job with stage := allocatedStage job.stage, slot := ⟨s.retention.header.count, hc⟩ } } := by
      unfold allocationEnds
      rw [show (endWrite s).capture = some job from c, show lowestFree (endWrite s).retention = _ from lowestFree_dense h.shape hc]
    have write := makeWrite_allocation (s := endWrite s) (job := job) c
    rw [e, write]
    have done := lawful_allocated h c w new words host hc (!s.writes.tail.isEmpty)
    refine lawful_arbitrate ?_
    unfold highWaterCheck
    split
    · exact lawful_setEvent .JHIGH done
    · exact done

/-! The completion write. -/

/-- The completion write has ended, its guarded write is queued and the engine IDLE (R11, R18, R92). -/
theorem lawful_completed (h : Lawful s) {job : CaptureJob} (c : s.capture = some job) (w : s.writes = [.COMPLETION]) (f : Filled s job)
    (host : HostCaptures s) (image : Image) (begun : Bool) :
    Lawful { s with
      retention := completionWrite job.slot image s.retention, writes := s.writes.tail, writeBegun := begun
      queue := s.queue ++ [{ addr := job.addr, size := job.size, data := job.data, cls := .GUARDED, region := some job.region
                             epochTag := openEpoch s.retention, inFlight := false }]
      host := none, capture := none } := by
  obtain ⟨p, r, hopen, l, -⟩ := h.law.work.capture c
  have isNew := get_put_eq s.retention job.slot { s.retention.slots.get job.slot with state := .COMPLETE, image := some image }
  have isOld := fun j => get_put_ne s.retention job.slot j { s.retention.slots.get job.slot with state := .COMPLETE, image := some image }
  have get : ∀ j, ((completionWrite job.slot image s.retention).slots.get j).line = (s.retention.slots.get j).line ∧
      (Taken (completionWrite job.slot image s.retention) j ↔ Taken s.retention j) := by
    intro j
    unfold completionWrite Taken
    by_cases e : job.slot = j
    · subst e
      rw [isNew, f.1]
      simp
    · rw [isOld j e]
      simp
  have stays : ∀ k, k ≠ job.slot → (completionWrite job.slot image s.retention).slots.get k = s.retention.slots.get k :=
    fun k e => isOld k (Ne.symm e)
  refine
    { law :=
      { latch := h.law.latch
        indexed := ⟨h.law.indexed.1, fun e he => ?_⟩, complete := fun x k hk => ?_, filling := fun x k hk => ?_
        guarded := fun e he hg => ?_
        work := .idle p rfl (by simp [w]) r hopen
        room := ⟨by simpa using Nat.lt_succ_of_le (h.law.room.2 host), fun x => absurd x (none_captures rfl)⟩
        flight := ⟨fun e he => ?_, fun g e he => ?_⟩
        read := fun g => absurd g (h.no_read host)
        cause := h.law.cause, origin := h.law.origin }
      shape := shape_completion h.shape _ _ (f.header_open h hopen) f.1, turns := h.turns, restored := h.restored }
  · obtain ⟨te, le⟩ := h.law.indexed.2 e he
    exact ⟨(get e.2).2.2 te, (get e.2).1.trans le⟩
  · rw [(get k).1]
    exact h.law.complete x k ((get k).2.1 hk)
  · by_cases e : k = job.slot
    · subst e
      simp only [completionWrite, isNew] at hk
      cases hk
    · rw [stays k e] at hk
      obtain ⟨job', hj, hs⟩ := h.law.filling x k hk
      rw [c] at hj
      cases hj
      exact absurd hs.symm e
  · rcases List.mem_append.1 he with he | he
    · obtain ⟨k, hk, hl⟩ := h.law.guarded e he hg
      have e : k ≠ job.slot := by
        rintro rfl
        rw [f.1] at hk
        cases hk
      exact ⟨k, by rw [stays k e]; exact ⟨hk, hl⟩⟩
    · rw [List.mem_singleton.1 he]
      refine ⟨job.slot, ?_, (get job.slot).1.trans (f.2.1.trans l)⟩
      simp only [completionWrite, isNew]
  · cases hq : s.queue with
    | nil => simp [hq] at he
    | cons x rest =>
      have := h.law.flight.1
      simp only [hq, List.cons_append, List.tail_cons, List.mem_append, List.mem_singleton] at he this
      rcases he with he | rfl
      · exact this e he
      · rfl
  · rcases List.mem_append.1 he with he | he
    · exact h.law.flight.2 g e he
    · rw [List.mem_singleton.1 he]

theorem lawful_completionWriteEnd (h : Lawful s) : Lawful (whenWriteEnds .COMPLETION completionEnds s) := by
  refine lawful_whenWriteEnds h fun x => ?_
  cases x with
  | completion job c w f host =>
    obtain ⟨req, hreq, st⟩ := host
    unfold completionEnds
    rw [show (endWrite s).capture = some job from c, makeWrite_completion (s := endWrite s) (job := job) c]
    refine lawful_arbitrate (lawful_drainCheck ?_)
    rw [postWrite_some (s := store _ (endWrite s)) _ _ _ _ _ hreq]
    exact (lawful_completed h c w f ⟨req, hreq, st⟩ (imageOfWords job.words) (!s.writes.tail.isEmpty)).frame
      ⟨rfl, rfl, rfl, rfl, rfl, rfl, rfl, rfl, rfl, rfl⟩ rfl

/-! The release write. -/

/-- The release write has freed the capture's slot; the record is gone, or it is abandoned with its read outstanding (R12, R20). -/
theorem lawful_released (h : Lawful s) {job : CaptureJob} (c : s.capture = some job) (w : s.writes = [.RELEASE]) (f : Filled s job)
    (host : HostCaptures s) (begun : Bool) (capture : Option CaptureJob)
    (stays : capture = none ∨ capture = some job ∧ job.stage = .ABANDONING ∧ s.ctl.state = .ROLLBACK ∧ job.words.length < 8) :
    Lawful { s with
      retention := releaseWrite job.slot s.retention, writes := s.writes.tail, writeBegun := begun
      index := s.index.filter (fun e => e.2 != job.slot), host := none, capture := capture } := by
  obtain ⟨p, r, hopen, l, -⟩ := h.law.work.capture c
  have opened := f.header_open h hopen
  have freed : (releaseWrite job.slot s.retention).slots.get job.slot = freeSlot := get_put_eq s.retention job.slot freeSlot
  have old : ∀ k, k ≠ job.slot → (releaseWrite job.slot s.retention).slots.get k = s.retention.slots.get k :=
    fun k e => get_put_ne s.retention job.slot k freeSlot (Ne.symm e)
  have taken : ∀ k, Taken (releaseWrite job.slot s.retention) k → k ≠ job.slot ∧ Taken s.retention k :=
    fun k => taken_freed.1
  have none_fills : ∀ k, journalState s ≠ .RECOVERY → ((releaseWrite job.slot s.retention).slots.get k).state ≠ .FILLING := by
    intro k x hk
    by_cases e : k = job.slot
    · rw [e, freed] at hk
      cases hk
    · rw [old k e] at hk
      obtain ⟨job', hj, hs⟩ := h.law.filling x k hk
      rw [c] at hj
      cases hj
      exact e hs.symm
  refine
    { law :=
      { latch := h.law.latch
        indexed := ⟨h.law.indexed.1.filter _, fun e he => ?_⟩, complete := fun x k hk => ?_
        filling := fun x k hk => absurd hk (none_fills k x)
        guarded := fun e he hg => ?_
        work := ?_
        room := ⟨h.law.room.1, fun x => absurd x (none_captures rfl)⟩
        flight := h.law.flight
        read := fun g => absurd g (h.no_read host)
        cause := fun x _ => h.law.cause x (HeaderOpen.ne_unwinding hopen), origin := h.law.origin }
      shape := shape_releaseWrite h.shape _ opened f.2.2, turns := h.turns, restored := h.restored }
  · obtain ⟨me, ne⟩ := List.mem_filter.1 he
    have ne : e.2 ≠ job.slot := by simpa using ne
    obtain ⟨te, le⟩ := h.law.indexed.2 e me
    exact ⟨taken_freed.2 ⟨ne, te⟩, by rw [old _ ne]; exact le⟩
  · obtain ⟨ne, tk⟩ := taken k hk
    rw [old k ne]
    exact List.mem_filter.2 ⟨h.law.complete x k tk, by simpa using ne⟩
  · obtain ⟨k, hk, hl⟩ := h.law.guarded e he hg
    have ne : k ≠ job.slot := by
      rintro rfl
      rw [f.1] at hk
      cases hk
    exact ⟨k, by rw [old k ne]; exact ⟨hk, hl⟩⟩
  · rcases stays with rfl | ⟨rfl, st, o, e⟩
    · exact .idle p rfl (by simp [w]) r (.inr opened)
    · refine .capturing job p rfl r (.inr opened) l (.released st o (by simp [w]) e ?_)
      rw [freed]
      simp [freeSlot]

theorem captureFault_view (job : CaptureJob) (s : State) : JournalView s (captureFault job s) ∧ (captureFault job s).host = s.host := by
  unfold captureFault
  split
  · exact ⟨.refl s, rfl⟩
  · rw [recordFault_eq]
    exact ⟨⟨rfl, rfl, rfl, rfl, rfl, rfl, rfl, rfl, rfl, rfl⟩, rfl⟩

theorem lawful_releaseWriteEnd (h : Lawful s) : Lawful (whenWriteEnds .RELEASE releaseEnds s) := by
  refine lawful_whenWriteEnds h fun x => ?_
  cases x with
  | release job c st w f e host =>
    have base := lawful_released h c w f host (!s.writes.tail.isEmpty)
    unfold releaseEnds
    rw [show (endWrite s).capture = some job from c, makeWrite_release (s := endWrite s) (job := job) c]
    have refused : ∀ reason, ∃ t : State, refuseHost reason (some job.region) (indexLose job.slot (store (releaseWrite job.slot) (endWrite s))) = t ∧
        t.host = none ∧ JournalView (indexLose job.slot (store (releaseWrite job.slot) (endWrite s))) t :=
      fun reason => ⟨_, rfl, refuseHost_host _ _ _, (answered_refuseHost _ _ _).view⟩
    dsimp only
    split
    · next ha =>
      obtain ⟨t, et, ht, view⟩ := refused .ABORTED
      rw [et]
      have o : s.ctl.state = .ROLLBACK := by
        rcases st with ⟨st, -⟩ | ⟨-, o⟩
        · rw [st] at ha
          cases ha
        · exact o
      split
      · exact (base (some job) (.inr ⟨rfl, ha, o, e⟩)).frame { view with capture := view.capture.trans c } ht
      · exact lawful_drainCheck ((base none (.inl rfl)).frame { view with capture := rfl } ht)
    · obtain ⟨t, et, ht, view⟩ := refused .MEMORY
      rw [et]
      obtain ⟨view', ht'⟩ := captureFault_view job t
      exact lawful_drainCheck ((base none (.inl rfl)).frame { view.trans view' with capture := rfl } (ht'.trans ht))

end Sys2Proof.Machine

end

section
/-! SUPPORT. The law of a running part's journal over the writes of the epoch and of the unwind, and over the take points of the link (O44). -/

namespace Sys2Proof.Machine

variable {s t : State}

/-! The seal and the clear. -/

theorem lawful_sealWriteEnd (h : Lawful s) : Lawful (whenWriteEnds .SEAL sealEnds s) := by
  refine lawful_whenWriteEnds h fun x => ?_
  cases x with
  | sealing p q c r w hopen =>
    exact
      { law :=
        { latch := h.law.latch, indexed := h.law.indexed, complete := h.law.complete, filling := h.law.filling, guarded := h.law.guarded
          work := .clearing (.inl p) q c r (by show s.writes.tail ++ _ = _; rw [w]; rfl) rfl
          room := h.law.room, flight := h.law.flight, read := h.law.read
          cause := fun x => by rw [show s.ctl.state = .ROLLBACK from x] at p; cases p
          origin := h.law.origin }
        shape := shape_seal h.shape s.uptime.ms hopen, turns := h.turns, restored := h.restored }

/-- An event changes nothing of what makes the part ready. -/
theorem Ready.setEvent (e : Event) (h : Ready s) : Ready (setEvent e s) := { h with }

theorem lawful_clearWriteEnd (h : Lawful s) : Lawful (whenWriteEnds .CLEAR clearEnds s) := by
  refine lawful_whenWriteEnds h fun x => ?_
  cases x with
  | clearing q c r w =>
    refine lawful_arbitrate (lawful_enterOpen (Ready.setEvent _ ?_))
    exact
      { latch := h.law.latch, index := rfl, queue := q, capture := c, writes := by show s.writes.tail = _; rw [w]; rfl
        restore := r, header := rfl, shape := shape_clear s.retention, read := h.law.read, turns := h.turns, restored := h.restored }

/-- The discard write ends whatever the engine had asked for (R70, log 13). -/
theorem lawful_discardWriteEnd (h : Lawful s) : Lawful (whenWriteEnds .DISCARD discardEnds s) := by
  refine lawful_whenWriteEnds h fun x => ?_
  cases x with
  | discarding q c w =>
    refine lawful_arbitrate (lawful_enterOpen ?_)
    exact
      { latch := h.law.latch, index := rfl, queue := q, capture := c, writes := rfl, restore := rfl, header := rfl
        shape := shape_discard s.retention s.uptime.ms, read := h.law.read, turns := h.turns, restored := h.restored }

/-! The unwind. -/

theorem lawful_startUnwind (h : Unwindable { s with restore := { s.restore with restored := 0 } }) : Lawful (startUnwind s) :=
  lawful_selectSlot h

theorem lawful_unwindingMarkEnd (h : Lawful s) : Lawful (whenWriteEnds .MARK markEnds s) := by
  refine lawful_whenWriteEnds h fun x => ?_
  cases x with
  | marking p q c w hopen =>
    have seen : s.ctl.state ≠ .RECOVERY → journalState s ≠ .RECOVERY := by
      intro x
      unfold journalState
      rcases p with p | p
      · simp [p]
      · exact absurd p x
    refine lawful_arbitrate (lawful_startUnwind ?_)
    exact
      { latch := h.law.latch, indexed := h.law.indexed, complete := fun x => h.law.complete (seen x)
        filling := fun x k hk => by
          obtain ⟨job, hj, -⟩ := h.law.filling (seen x) k hk
          rw [c] at hj
          cases hj
        queue := q, capture := c, state := p, header := rfl, writes := .inl (by show s.writes.tail = _; rw [w]; rfl)
        shape := shape_mark h.shape _, read := h.law.read, turns := h.turns
        restored := by show 0 + s.retention.header.count ≤ 256; rw [Nat.zero_add]; exact h.shape.bound }

/-- The unwind is over: the part is ready for its entry to OPEN, whatever state the engine leaves (R61, R65). -/
theorem lawful_unwindOver (h : Ready (restoreToIdle s)) : Lawful (unwindOver s) := lawful_enterOpen (h.setEvent _)

/-- With no slot taken the index is empty (R9). -/
theorem index_nil {r : Retention} {index : List (Line × SlotNo)} (h : ∀ p ∈ index, Taken r p.2 ∧ (r.slots.get p.2).line = p.1)
    (free : ∀ k, ¬ Taken r k) : index = [] :=
  List.eq_nil_iff_forall_not_mem.2 fun p hp => free p.2 (h p hp).1

theorem lawful_finishWriteEnd (h : Lawful s) : Lawful (whenWriteEnds .FINISH finishEnds s) := by
  refine lawful_whenWriteEnds h fun x => ?_
  cases x with
  | finishing q c hc w =>
    have free : ∀ k, ¬ Taken s.retention k := by
      intro k tk
      have := (h.shape.dense k).1 tk
      omega
    refine lawful_arbitrate (lawful_unwindOver ?_)
    exact
      { latch := h.law.latch, index := index_nil h.law.indexed.2 free, queue := q, capture := c
        writes := by show s.writes.tail = _; rw [w]; rfl
        restore := rfl, header := rfl, shape := shape_finish h.shape _ _ _ hc, read := h.law.read, turns := h.turns
        restored := h.restored }

/-- The retire write with slots left (R15, R58). -/
theorem unwindable_retired (h : Lawful s) (p : s.ctl.state = .ROLLBACK ∨ s.ctl.state = .RECOVERY) (q : s.queue = []) (c : s.capture = none)
    (hu : s.retention.header.state = .UNWINDING) (n : s.restore.restored + s.retention.header.count ≤ 257) {k : SlotNo}
    (newest : k.val + 1 = s.retention.header.count) (last : s.retention.header.count ≠ 1) (uptime : BitVec 32) (begun : Bool) :
    Unwindable { s with
      retention := retireWrite (unwindKind s) s.restore.restored uptime s.retention
      index := s.index.filter (fun e => e.2 != k), writes := [], writeBegun := begun } := by
  have shape := shape_retire h.shape (unwindKind s) s.restore.restored uptime hu (by omega)
  rw [retireWrite_newest h.shape newest, if_neg last] at shape ⊢
  have seen : s.ctl.state ≠ .RECOVERY → journalState s ≠ .RECOVERY := by
    intro x
    unfold journalState
    rcases p with p | p
    · simp [p]
    · exact absurd p x
  have freed := get_put_eq s.retention k freeSlot
  have old := fun j => get_put_ne s.retention k j freeSlot
  exact
    { latch := h.law.latch
      indexed := by
        refine ⟨h.law.indexed.1.filter _, fun e he => ?_⟩
        obtain ⟨me, ne⟩ := List.mem_filter.1 he
        have ne : e.2 ≠ k := by simpa using ne
        obtain ⟨te, le⟩ := h.law.indexed.2 e me
        exact ⟨taken_freed.2 ⟨ne, te⟩, (congrArg Slot.line (old e.2 (Ne.symm ne))).trans le⟩
      complete := fun x j tj => by
        obtain ⟨ne, tj⟩ := taken_freed.1 tj
        refine List.mem_filter.2 ⟨?_, by simpa using ne⟩
        rw [old j (Ne.symm ne)]
        exact h.law.complete (seen x) j tj
      filling := fun x j hj => by
        by_cases e : k = j
        · subst e
          rw [freed] at hj
          cases hj
        · rw [old j e] at hj
          obtain ⟨job, hjob, -⟩ := h.law.filling (seen x) j hj
          rw [c] at hjob
          cases hjob
      queue := q, capture := c, state := p, header := hu, writes := .inl rfl, shape := shape, read := h.law.read, turns := h.turns
      restored := by
        show s.restore.restored + (s.retention.header.count - 1) ≤ 256
        omega }

/-- The last retire write (R15, R61). -/
theorem ready_retired (h : Lawful s) (q : s.queue = []) (c : s.capture = none) (hu : s.retention.header.state = .UNWINDING) {k : SlotNo}
    (newest : k.val + 1 = s.retention.header.count) (last : s.retention.header.count = 1) (uptime : BitVec 32) (begun : Bool) :
    Ready (restoreToIdle { s with
      retention := retireWrite (unwindKind s) s.restore.restored uptime s.retention
      index := s.index.filter (fun e => e.2 != k), writes := [], writeBegun := begun }) := by
  have shape := shape_retire h.shape (unwindKind s) s.restore.restored uptime hu (by omega)
  rw [retireWrite_newest h.shape newest, if_pos last] at shape ⊢
  have noEntry : s.index.filter (fun e => e.2 != k) = [] := by
    refine List.filter_eq_nil_iff.2 fun e he => ?_
    have := (h.shape.dense e.2).1 (h.law.indexed.2 e he).1
    have : e.2 = k := Fin.ext (by omega)
    simp [this]
  exact
    { latch := h.law.latch, index := noEntry, queue := q, capture := c, writes := rfl, restore := rfl, header := rfl, shape := shape
      read := h.law.read, turns := h.turns, restored := h.restored }

theorem lawful_retireWriteEnd (h : Lawful s) : Lawful (whenWriteEnds .RETIRE retireEnds s) := by
  refine lawful_whenWriteEnds h fun x => ?_
  cases x with
  | retiring p q c hu hc n w =>
    obtain ⟨k, hk, newest⟩ := newest_dense h.shape (by omega)
    have e : retireEnds (endWrite s) = arbitrate
        (if (retireWrite (unwindKind s) s.restore.restored s.uptime.ms s.retention).header.count = 0
          then unwindOver (indexLose k (makeWrite .RETIRE (endWrite s))) else selectSlot (indexLose k (makeWrite .RETIRE (endWrite s)))) := by
      unfold retireEnds
      rw [show newestSlot (endWrite s).retention = some k from hk]
      rfl
    have tail : s.writes.tail = [] := by rw [w]; rfl
    have made : indexLose k (makeWrite .RETIRE (endWrite s)) =
        { s with
          retention := retireWrite (unwindKind s) s.restore.restored s.uptime.ms s.retention
          index := s.index.filter (fun e => e.2 != k), writes := [], writeBegun := !s.writes.tail.isEmpty } := by
      rw [← tail]
      rfl
    rw [e, made]
    refine lawful_arbitrate ?_
    by_cases last : s.retention.header.count = 1
    · rw [if_pos (by rw [retireWrite_newest h.shape newest, if_pos last]; exact congrArg (· - 1) last)]
      exact lawful_unwindOver (ready_retired h q c hu newest last _ _)
    · rw [if_neg (by
        rw [retireWrite_newest h.shape newest, if_neg last]
        show s.retention.header.count - 1 ≠ 0
        omega)]
      exact lawful_selectSlot (unwindable_retired h p q c hu n newest last _ _)

/-! The commands of the link. -/

/-- A capture's record and the writes asked for change, with its slot kept. -/
theorem lawful_captureRecord (h : Lawful s) {job : CaptureJob} (c : s.capture = some job) (stage : CaptureStage) (ws : List RetentionWrite)
    (x : CapturePhase { s with capture := some { job with stage := stage }, writes := ws } { job with stage := stage }) :
    Lawful { s with capture := some { job with stage := stage }, writes := ws } := by
  obtain ⟨p, r, hopen, l, -⟩ := h.law.work.capture c
  exact
    { law :=
      { latch := h.law.latch, indexed := h.law.indexed, complete := h.law.complete
        filling := fun y k hk => by
          obtain ⟨j, hj, hs⟩ := h.law.filling y k hk
          rw [c] at hj
          cases hj
          exact ⟨_, rfl, hs⟩
        guarded := h.law.guarded, work := .capturing _ p rfl r hopen l x
        room := h.law.room, flight := h.law.flight, read := h.law.read, cause := h.law.cause, origin := h.law.origin }
      shape := h.shape, turns := h.turns, restored := h.restored }

/-- The abandon order of a rollback (R20, R53). -/
theorem lawful_abandonCapture (h : Lawful s) (o : s.ctl.state = .ROLLBACK) : Lawful (abandonCapture s) := by
  unfold abandonCapture
  split
  · exact h
  · next job c =>
    obtain ⟨-, -, -, -, x⟩ := h.law.work.capture c
    split
    · next st =>
      refine lawful_captureRecord h c .ABANDONING (s.writes ++ [.RELEASE]) ?_
      cases x with
      | allocating _ w n e host => exact .abandonedEarly rfl o (by simp [w]) n e host
      | _ => simp_all
    · next st =>
      refine lawful_captureRecord h c .ABANDONING (s.writes ++ [.RELEASE]) ?_
      cases x with
      | waiting _ w f e host => exact .abandoned rfl o (by simp [w]) f (by simp [e]) host
      | _ => simp_all
    · next st =>
      split
      · next g =>
        refine lawful_captureRecord h c .ABANDONING (s.writes ++ [.RELEASE]) ?_
        cases x with
        | reading _ w _ f e host => exact .abandoned rfl o (by simp [w]) f e host
        | _ => simp_all
      · exact h
    · exact h

/-- ABORT (R52, R53). -/
theorem lawful_actAbort (h : Lawful s) : Lawful (actAbort s).1 := by
  unfold actAbort
  split
  · next ho =>
    refine lawful_rollbackDrainCheck (lawful_abandonCapture (lawful_enterRollback_open h .ABORT ho) ?_)
    exact reev_state _
  · exact h

/-- A re-evaluation leaves the unwind's ground as it is. -/
theorem unwindable_reevaluate (h : Unwindable s) : Unwindable (reevaluate s) := by
  have closed : s.ctl.state ≠ .OPEN := by rcases h.state with e | e <;> rw [e] <;> simp
  have v := reevaluate_closed closed
  have ctl := v.ctl
  exact
    { latch := by rw [v.retention]; exact h.latch
      indexed := by rw [v.same]; exact h.indexed
      complete := by rw [v.same]; exact h.complete
      filling := by rw [v.same]; exact h.filling
      queue := by rw [v.same]; exact h.queue
      capture := by rw [v.same]; exact h.capture
      state := by rw [v.same]; exact h.state
      header := by rw [v.retention]; exact h.header
      writes := by rw [v.writes]; exact h.writes
      shape := by rw [v.retention]; exact h.shape
      read := fun g => by
        obtain ⟨req, hr, st⟩ := h.read (by rw [v.same] at g; exact g)
        rw [reevaluate_noHold (fun job hj d e => by rw [hr] at hj; cases hj; rw [st] at e; cases e)]
        exact ⟨req, hr, st⟩
      turns := by rw [v.same]; exact h.turns
      restored := by rw [v.same]; exact h.restored }

/-- What stands in a stall: the engine halted at its slot, perhaps with a discard asked for (R67, R70). -/
theorem stalled_work (h : Lawful s) (st : s.ctl.state = .STALLED) :
    s.queue = [] ∧ s.capture = none ∧ s.retention.header.state = .UNWINDING ∧ s.restore.state = .HALTED ∧
      (s.writes = [] ∨ s.writes = [.DISCARD]) ∧ ∃ k, s.restore.slot = some k ∧ k.val + 1 = s.retention.header.count ∧
        (s.retention.slots.get k).state = .COMPLETE ∧ s.restore.restored + s.retention.header.count ≤ 256 := by
  cases h.law.work with
  | restoring k q c hu p w cur new full n =>
    rcases p with ⟨p, -⟩ | ⟨-, halted⟩
    · simp [st] at p
    · exact ⟨q, c, hu, halted, w, k, cur, new, full, n⟩
  | capturing _ p => simp [st] at p
  | idle p => simp [st] at p
  | sealing p => simp [st] at p
  | clearing p => simp [st] at p
  | marking p => simp [st] at p
  | retiring _ _ _ _ p => simp [st] at p

/-- RETRY_RESTORE (R69). -/
theorem lawful_actRetryRestore (h : Lawful s) : Lawful (actRetryRestore s).1 := by
  unfold actRetryRestore
  split
  · next st =>
    obtain ⟨q, c, hu, halted, w, k, cur, new, full, n⟩ := stalled_work h st
    have seen : stateOfOrigin s.ctl.stallOrigin = journalState s := by simp [journalState, st]
    refine lawful_arbitrate (lawful_selectSlot (unwindable_reevaluate ?_))
    exact
      { latch := h.law.latch, indexed := h.law.indexed, complete := fun x => h.law.complete (seen ▸ x)
        filling := fun x k hk => by
          obtain ⟨job, hj, -⟩ := h.law.filling (seen ▸ x) k hk
          rw [c] at hj
          cases hj
        queue := q, capture := c
        state := by
          show stateOfOrigin s.ctl.stallOrigin = .ROLLBACK ∨ stateOfOrigin s.ctl.stallOrigin = .RECOVERY
          unfold stateOfOrigin
          split <;> simp
        header := hu, writes := w, shape := h.shape, read := h.law.read, turns := h.turns, restored := n }
  · exact h

/-- DISCARD_JOURNAL (R70). -/
theorem lawful_actDiscardJournal (h : Lawful s) : Lawful (actDiscardJournal s).1 := by
  unfold actDiscardJournal
  split
  · next st =>
    obtain ⟨q, c, hu, halted, w, k, cur, new, full, n⟩ := stalled_work h st
    dsimp only
    split
    · exact h
    · next hw =>
      have w : s.writes = [] := by
        rcases w with w | w
        · exact w
        · simp [w] at hw
      exact { h with law := { h.law with
        work := .restoring k q c hu (.inr ⟨st, halted⟩) (.inr (by simp [w])) cur new full n } }
  · exact h

end Sys2Proof.Machine

end

section
/-! SUPPORT. Every command of a running part keeps the law of its journal; a stopped part's journal stands still (O44). -/

namespace Sys2Proof.Machine

variable {s t : State}

/-- The take point of a setting changes nothing that the law of the journal reads. -/
theorem setting_view {i : Instr} (h : isSetting i = true) (s : State) : JournalView s (linkAct i s).1 ∧ (linkAct i s).1.host = s.host := by
  have same : ∀ t : State, t = s → JournalView s t ∧ t.host = s.host := by rintro _ rfl; exact ⟨.refl _, rfl⟩
  cases i <;> first | exact absurd h Bool.noConfusion | skip
  case stageRegion index kind base limit metered writeLimit qualify action =>
    show JournalView s (actStageRegion index kind base limit metered writeLimit qualify action s).1 ∧
      (actStageRegion index kind base limit metered writeLimit qualify action s).1.host = _
    unfold actStageRegion
    split
    · exact ⟨⟨rfl, rfl, rfl, rfl, rfl, rfl, rfl, rfl, rfl, rfl⟩, rfl⟩
    · exact same _ rfl
  case clearTrip a =>
    show JournalView s (actClearTrip a s).1 ∧ (actClearTrip a s).1.host = _
    unfold actClearTrip
    split
    · exact same _ rfl
    · split
      · exact ⟨⟨rfl, rfl, rfl, rfl, rfl, rfl, rfl, rfl, rfl, rfl⟩, rfl⟩
      · exact same _ rfl
  case setConfig a b c d =>
    show JournalView s (actSetConfig a b c d s).1 ∧ (actSetConfig a b c d s).1.host = _
    unfold actSetConfig
    split
    · exact ⟨⟨rfl, rfl, rfl, rfl, rfl, rfl, rfl, rfl, rfl, rfl⟩, rfl⟩
    · exact same _ rfl
  case setEnables a =>
    show JournalView s (actSetEnables a s).1 ∧ (actSetEnables a s).1.host = _
    unfold actSetEnables
    split
    · exact ⟨⟨rfl, rfl, rfl, rfl, rfl, rfl, rfl, rfl, rfl, rfl⟩, rfl⟩
    · exact same _ rfl
  case takeRefusals a =>
    show JournalView s (actTakeRefusals a s).1 ∧ (actTakeRefusals a s).1.host = _
    unfold actTakeRefusals
    split
    · exact ⟨⟨rfl, rfl, rfl, rfl, rfl, rfl, rfl, rfl, rfl, rfl⟩, rfl⟩
    · exact same _ rfl
  all_goals exact ⟨⟨rfl, rfl, rfl, rfl, rfl, rfl, rfl, rfl, rfl, rfl⟩, rfl⟩

/-- The take point of a link command keeps the law of the journal. -/
theorem lawful_linkAct (i : Instr) (h : Lawful s) : Lawful (linkAct i s).1 := by
  by_cases hi : isSetting i = true
  · obtain ⟨view, host⟩ := setting_view hi s
    exact h.frame view host
  · cases i <;> first | exact absurd rfl hi | skip
    case commit => exact lawful_commitRequest h
    case abort => exact lawful_actAbort h
    case retryRestore => exact lawful_actRetryRestore h
    case discardJournal => exact lawful_actDiscardJournal h
    case readRegion a b =>
      show Lawful (actReadRegion a b s).1
      unfold actReadRegion
      split <;> exact h
    all_goals exact h

/-- The frame in progress is nothing that the law of the journal reads. -/
theorem lawful_link (l : Link) (h : Lawful s) : Lawful { s with link := l } := h.frame ⟨rfl, rfl, rfl, rfl, rfl, rfl, rfl, rfl, rfl, rfl⟩ rfl

theorem lawful_takePoint (i : Instr) (code : Byte) (params : List Byte) (h : Lawful s) : Lawful (takePoint code params (linkAct i) s) :=
  lawful_link _ (lawful_linkAct i h)

theorem lawful_atTakePoint (i : Instr) (h : Lawful s) : Lawful (atTakePoint i (linkAct i) s) := by
  unfold atTakePoint
  split
  · split
    · exact lawful_takePoint i _ _ h
    · exact h
  · exact h

theorem lawful_sampleBit (mdi : Bool) (h : Lawful s) : Lawful (sampleBit mdi s) := by
  unfold sampleBit
  dsimp only
  split
  · unfold byteWhole
    dsimp only
    split
    · exact lawful_link _ h
    · split
      · exact lawful_takePoint _ _ _ h
      · exact lawful_link _ h
  · exact lawful_link _ h

/-- A request that arrives finds nothing that waits for it. -/
theorem lawful_arriveHost (op : HostOp) (addr : Addr) (size : Size) (tag : Tag) (h : Lawful s) (idle : s.host = none) :
    Lawful (arriveHost op addr size tag s) := by
  have free : HostFree s := ⟨none_captures idle, fun g => by obtain ⟨req, e, -⟩ := h.law.read g; rw [idle] at e; cases e⟩
  unfold arriveHost
  refine lawful_reevaluate (h.host free ⟨rfl, rfl, rfl, rfl, rfl, rfl, rfl, rfl, rfl, rfl⟩ ?_)
  rintro ⟨req, e, st⟩
  cases e
  cases st

theorem lawful_orderTripRollback (h : Lawful s) : Lawful (orderTripRollback s) := by
  unfold orderTripRollback
  split
  · next ho => exact lawful_rollbackDrainCheck (lawful_enterRollback_open h .TRIP ho)
  · exact h

theorem lawful_windowBoundary (h : Lawful s) : Lawful (windowBoundary s) := by
  unfold windowBoundary
  dsimp only
  have evaluated : ∀ m w, Lawful { s with meters := m, window := w } :=
    fun _ _ => h.frame ⟨rfl, rfl, rfl, rfl, rfl, rfl, rfl, rfl, rfl, rfl⟩ rfl
  have ordered : ∀ (b : Bool) (u : State), Lawful u → Lawful (if b = true then orderTripRollback u else u) := by
    intro b u hu
    cases b
    · exact hu
    · exact lawful_orderTripRollback hu
  refine ordered _ _ ?_
  split
  · exact evaluated _ _
  · exact lawful_setEvent _ (evaluated _ _)

/-- Every command of a running part, but for the rows of the supply and of RST#, keeps the law of its journal. -/
theorem lawful_exec {c : Instr} (h : Lawful s) (run : isRunning s = true) (hc : isSupplyRow c = false) (e : exec c s = .next t) :
    Lawful t := by
  cases c <;> first | exact absurd hc Bool.noConfusion | cases e
  case hostRequest op addr size tag =>
    unfold hostRequest
    split
    · exact h
    · split
      · next stopped => rw [run] at stopped; cases stopped
      · split
        · exact h
        · next idle => exact lawful_arbitrate (lawful_arriveHost op addr size tag h (by simpa using idle))
  case memoryResponse tag answer =>
    split
    · exact h
    · exact lawful_takeResponse _ _ h
  case memoryResponseLimit => exact lawful_takeResponseLimit h
  case holdDeadline =>
    split
    · exact h
    · next job hj =>
      split
      · next st => exact lawful_refuseHost _ _ h (host_free h hj (by rw [st]; simp) (by rw [st]; simp))
      · exact h
  case allocationWriteEnd => exact lawful_allocationWriteEnd h
  case completionWriteEnd => exact lawful_completionWriteEnd h
  case releaseWriteEnd => exact lawful_releaseWriteEnd h
  case sealWriteEnd => exact lawful_sealWriteEnd h
  case clearWriteEnd => exact lawful_clearWriteEnd h
  case unwindingMarkEnd => exact lawful_unwindingMarkEnd h
  case retireWriteEnd => exact lawful_retireWriteEnd h
  case finishWriteEnd => exact lawful_finishWriteEnd h
  case discardWriteEnd => exact lawful_discardWriteEnd h
  case bootCountWriteEnd => exact lawful_whenWriteEnds h nofun
  case initialisationWriteEnd => exact lawful_whenWriteEnds h nofun
  case markRequest =>
    split
    · exact lawful_commitRequest (h.frame ⟨rfl, rfl, rfl, rfl, rfl, rfl, rfl, rfl, rfl, rfl⟩ rfl)
    · exact h
  case autoCommitExpiry =>
    split
    · exact lawful_commitRequest (lawful_ctl h _ rfl rfl rfl)
    · exact h
  case windowBoundary =>
    split
    · exact lawful_windowBoundary h
    · exact h
  case markRisingEdge =>
    split
    · exact h.frame ⟨rfl, rfl, rfl, rfl, rfl, rfl, rfl, rfl, rfl, rfl⟩ rfl
    · exact h
  case markFallingEdge => exact h.frame ⟨rfl, rfl, rfl, rfl, rfl, rfl, rfl, rfl, rfl, rfl⟩ rfl
  case mcsFall =>
    split
    · exact lawful_link _ h
    · exact h
  case mcsRise =>
    split
    · exact h
    · exact lawful_setEvent _ (lawful_link _ h)
    · exact lawful_link _ h
    · exact lawful_link _ h
  case mckRisingEdge mdi =>
    split
    · exact lawful_sampleBit mdi h
    · exact lawful_link _ h
    · exact h
    · exact h
  case unknownCode code =>
    split
    · exact lawful_atTakePoint (.unknownCode code) h
    · exact h
  case readStatus => exact lawful_atTakePoint .readStatus h
  case commit => exact lawful_atTakePoint .commit h
  case abort => exact lawful_atTakePoint .abort h
  case retryRestore => exact lawful_atTakePoint .retryRestore h
  case discardJournal => exact lawful_atTakePoint .discardJournal h
  case stageRegion index kind base limit metered writeLimit qualify action =>
    exact lawful_atTakePoint (.stageRegion index kind base limit metered writeLimit qualify action) h
  case clearStaged => exact lawful_atTakePoint .clearStaged h
  case readRegion index selection => exact lawful_atTakePoint (.readRegion index selection) h
  case clearTrip index => exact lawful_atTakePoint (.clearTrip index) h
  case setConfig window hold level interval => exact lawful_atTakePoint (.setConfig window hold level interval) h
  case readConfig => exact lawful_atTakePoint .readConfig h
  case setEnables enables => exact lawful_atTakePoint (.setEnables enables) h
  case takeEvents => exact lawful_atTakePoint .takeEvents h
  case takeRefusals n => exact lawful_atTakePoint (.takeRefusals n) h
  case readFault => exact lawful_atTakePoint .readFault h
  case clearFault => exact lawful_atTakePoint .clearFault h
  case readOutcomes => exact lawful_atTakePoint .readOutcomes h
  case readEntry slot => exact lawful_atTakePoint (.readEntry slot) h

/-! A stopped part. -/

/-- What the law of a stopped part's journal reads is as it was. -/
structure StandsStill (s t : State) : Prop where
  retention : t.retention = s.retention
  writes : t.writes = s.writes
  index : t.index = s.index
  supply : t.supply = s.supply
  force : t.resetInForce = s.resetInForce
  turns : t.arbiter.hostCount = s.arbiter.hostCount
  restored : t.restore.restored = s.restore.restored

theorem StandsStill.refl (s : State) : StandsStill s s := ⟨rfl, rfl, rfl, rfl, rfl, rfl, rfl⟩

/-- A part that does not run and whose journal stands still keeps the law over steps. -/
theorem JournalLaw.still (h : JournalLaw s) (stopped : isRunning s = false) (k : StandsStill s t) : JournalLaw t where
  journal := by rw [k.retention]; exact h.journal
  running run := by
    have : isRunning t = isRunning s := by unfold isRunning; rw [k.supply, k.force]
    rw [this, stopped] at run
    cases run
  restart := by rw [k.writes, k.index, k.supply]; exact h.restart
  boot := by rw [k.writes, k.retention]; exact h.boot
  turns := by rw [k.turns]; exact h.turns
  restored := by rw [k.restored]; exact h.restored

/-- The link takes no command of a stopped part (R165). -/
theorem atTakePoint_stopped (h : isRunning s = false) (i : Instr) (act : State → State × List Byte) : atTakePoint i act s = s := by
  unfold atTakePoint
  split
  · simp [canComplete, h]
  · rfl

/-- A stopped part's one retention write is a restart's. -/
theorem Stopped.head_restart (h : Stopped s) {w : RetentionWrite} (hw : s.writes.head? = some w) : isRestartWrite w = true := by
  rcases h.writes with e | ⟨⟨w', e, hr⟩, -⟩
  · rw [e] at hw
    cases hw
  · rw [e] at hw
    cases hw
    exact hr

/-- The end of a running part's write is no event of a stopped part. -/
theorem whenWriteEnds_stopped (h : Stopped s) {w : RetentionWrite} (hw : isRestartWrite w = false) (f : State → State) :
    whenWriteEnds w f s = s := by
  unfold whenWriteEnds
  split
  · next e => rw [h.head_restart e] at hw; cases hw
  · rfl

theorem commitRequest_off (h : s.ctl.state = .OFF) : commitRequest s = (s, .STATE) := by
  unfold commitRequest
  rw [h]

/-- The rows that end a restart. -/
def isRestartEnd : Instr → Bool
  | .bootCountWriteEnd | .initialisationWriteEnd => true
  | _ => false

/-- In a stopped part the journal stands still, but for the rows of the supply and of RST# and the end of a restart. -/
theorem exec_stopped {c : Instr} (h : Stopped s) (stopped : isRunning s = false) (off : s.ctl.state = .OFF) (hc : isSupplyRow c = false)
    (hr : isRestartEnd c = false) (e : exec c s = .next t) : StandsStill s t := by
  have at_rest := fun i act => atTakePoint_stopped stopped i act
  have write_end := fun w hw f => whenWriteEnds_stopped (w := w) h hw f
  cases c <;> first | exact absurd hc Bool.noConfusion | exact absurd hr Bool.noConfusion | cases e
  case hostRequest =>
    unfold hostRequest
    split
    · exact .refl s
    · exact ⟨rfl, rfl, rfl, rfl, rfl, rfl, rfl⟩
  case memoryResponse =>
    split
    · exact .refl s
    · unfold takeResponse
      rw [h.access]
      exact ⟨rfl, rfl, rfl, rfl, rfl, rfl, rfl⟩
  case memoryResponseLimit =>
    unfold takeResponseLimit
    rw [h.access]
    exact .refl s
  case holdDeadline =>
    rw [h.host]
    exact .refl s
  case allocationWriteEnd => rw [write_end _ rfl]; exact .refl s
  case completionWriteEnd => rw [write_end _ rfl]; exact .refl s
  case releaseWriteEnd => rw [write_end _ rfl]; exact .refl s
  case sealWriteEnd => rw [write_end _ rfl]; exact .refl s
  case clearWriteEnd => rw [write_end _ rfl]; exact .refl s
  case unwindingMarkEnd => rw [write_end _ rfl]; exact .refl s
  case retireWriteEnd => rw [write_end _ rfl]; exact .refl s
  case finishWriteEnd => rw [write_end _ rfl]; exact .refl s
  case discardWriteEnd => rw [write_end _ rfl]; exact .refl s
  case markRequest =>
    split
    · rw [commitRequest_off (by exact off)]
      exact ⟨rfl, rfl, rfl, rfl, rfl, rfl, rfl⟩
    · exact .refl s
  case autoCommitExpiry =>
    split
    · rw [commitRequest_off (by exact off)]
      exact ⟨rfl, rfl, rfl, rfl, rfl, rfl, rfl⟩
    · exact .refl s
  case windowBoundary =>
    rw [stopped]
    exact .refl s
  case markRisingEdge => split <;> exact ⟨rfl, rfl, rfl, rfl, rfl, rfl, rfl⟩
  case markFallingEdge => exact ⟨rfl, rfl, rfl, rfl, rfl, rfl, rfl⟩
  case mcsFall => split <;> exact ⟨rfl, rfl, rfl, rfl, rfl, rfl, rfl⟩
  case mcsRise => split <;> exact ⟨rfl, rfl, rfl, rfl, rfl, rfl, rfl⟩
  case mckRisingEdge mdi =>
    rcases h.link with e | e <;> rw [e] <;> exact .refl s
  case unknownCode code =>
    rw [at_rest, ite_self]
    exact .refl s
  all_goals
    rw [at_rest]
    exact .refl s

end Sys2Proof.Machine

end

section
/-! SUPPORT. The law of the journal over stops, restarts and the timebase, and so over every step (O44). -/

namespace Sys2Proof.Machine

variable {s t : State}

/-! Restarts. -/

/-- The part at step 5 of a restart: its store trusted, every block as a restart gives it (R161). -/
structure Blank (s : State) : Prop where
  latch : s.retention.latch = true
  index : s.index = []
  queue : s.queue = []
  capture : s.capture = none
  writes : s.writes = []
  restore : s.restore.state = .IDLE
  shape : JournalShape s.retention
  grant : s.arbiter.grant = none
  turns : s.arbiter.hostCount ≤ 4
  restored : s.restore.restored ≤ 256

/-- A recovery begins with its first write asked for: its index is empty whatever slots are taken (R9, R48). -/
theorem Blank.recovering (h : Blank s) (w : RetentionWrite) (work : Work (askWrite w { s with ctl := { s.ctl with state := .RECOVERY } })) :
    Lawful (askWrite w { s with ctl := { s.ctl with state := .RECOVERY } }) where
  law :=
    { latch := h.latch
      indexed := by show s.index.Nodup ∧ ∀ p ∈ s.index, _; rw [h.index]; simp
      complete := fun x => absurd rfl x
      filling := fun x => absurd rfl x
      guarded := by show ∀ e ∈ s.queue, _; rw [h.queue]; simp
      work := work
      room := by show s.queue.length ≤ 8 ∧ (_ → s.queue.length ≤ 7); rw [h.queue]; simp
      flight := by show (∀ e ∈ s.queue.tail, _) ∧ (_ → ∀ e ∈ s.queue, _); rw [h.queue]; simp
      read := by show s.arbiter.grant = _ → _; rw [h.grant]; exact nofun
      cause := nofun
      origin := nofun }
  shape := h.shape
  turns := h.turns
  restored := h.restored

/-- The controller's first state follows from the header alone (R48, R163). -/
theorem lawful_chooseFirstState (h : Blank s) : Lawful (chooseFirstState s) := by
  have asked : ∀ w : RetentionWrite, s.writes ++ [w] = [w] := by intro w; rw [h.writes]; rfl
  have read : s.arbiter.grant = some .HOST_READ → ∃ req, s.host = some req ∧ req.stage = .AT_MEMORY := by rw [h.grant]; exact nofun
  unfold chooseFirstState
  split
  · next empty =>
    refine lawful_enterOpen (Ready.setEvent _ ?_)
    exact
      { latch := h.latch, index := h.index, queue := h.queue, capture := h.capture, writes := h.writes, restore := h.restore
        header := empty, shape := h.shape, read := read, turns := h.turns, restored := h.restored }
  · unfold startRecovery
    dsimp only
    split
    · next sealed =>
      exact h.recovering .CLEAR (.clearing (.inr rfl) h.queue h.capture h.restore (asked _) sealed)
    · next unwinds =>
      refine lawful_startUnwind ?_
      exact
        { latch := h.latch
          indexed := by show s.index.Nodup ∧ ∀ p ∈ s.index, _; rw [h.index]; simp
          complete := fun x => absurd rfl x
          filling := fun x => absurd rfl x
          queue := h.queue, capture := h.capture, state := .inr rfl, header := unwinds, writes := .inl h.writes, shape := h.shape
          read := read, turns := h.turns
          restored := by show 0 + s.retention.header.count ≤ 256; rw [Nat.zero_add]; exact h.shape.bound }
    · next opened => exact h.recovering .MARK (.marking (.inr rfl) h.queue h.capture h.restore (asked _) (.inr opened))
    · next empty => exact h.recovering .MARK (.marking (.inr rfl) h.queue h.capture h.restore (asked _) (.inl empty))

/-- A restart's write ends with the part lawful, where it leaves a trusted store of the journal's shape (R161). -/
theorem lawful_endRestart (h : Stopped s) (j : JournalLaw s) {w : RetentionWrite} (hw : s.writes.head? = some w) (f : Retention → Retention)
    (latch : (f s.retention).latch = true) (shape : JournalShape (f s.retention)) : Lawful (endRestart (store f (endWrite s))) := by
  have restart := h.head_restart hw
  have mem : w ∈ s.writes := List.mem_of_mem_head? hw
  refine lawful_chooseFirstState ?_
  exact
    { latch := latch, index := (j.restart w mem restart).1, queue := h.queue, capture := h.capture
      writes := by
        rcases h.writes with e | ⟨⟨w', e, -⟩, -⟩
        · rw [e] at hw
          cases hw
        · show s.writes.tail = []
          rw [e]
          rfl
      restore := h.restore, shape := shape, grant := h.grant, turns := j.turns, restored := j.restored }

/-- The end of a restart keeps the law of the journal (R2, R161). -/
theorem journalLaw_restartEnd {c : Instr} (h : Stopped s) (j : JournalLaw s) (hc : isRestartEnd c = true) (e : exec c s = .next t) :
    JournalLaw t := by
  cases c <;> first | exact absurd hc Bool.noConfusion | cases e
  case bootCountWriteEnd =>
    unfold whenWriteEnds
    split
    · next hw =>
      have latch := j.boot (List.mem_of_mem_head? hw)
      exact (lawful_arbitrate (lawful_endRestart h j hw bootCountWrite latch (shape_bootCount (j.journal latch)))).journalLaw
    · exact j
  case initialisationWriteEnd =>
    unfold whenWriteEnds
    split
    · next hw =>
      have done := lawful_endRestart h j hw initialisationWrite rfl (shape_initialisation _)
      exact (lawful_arbitrate (lawful_setEvent .RETENTION_LOST done)).journalLaw
    · exact j

/-! Stops. -/

/-- One write asked for and begun is made. -/
theorem begunWrites_single (w : RetentionWrite) (n : Nat) : begunWrites [w] (n + 1) = [w] := by cases w <;> rfl

/-- Whichever writes of a running part have begun, they leave the journal its shape (R1). -/
theorem shape_begun (h : Lawful s) (n : Nat) : JournalShape (storeAfter s (begunWrites s.writes n) s.retention) := by
  cases n with
  | zero => rw [begunWrites_zero]; exact h.shape
  | succ n =>
    cases hs : s.writes with
    | nil => exact h.shape
    | cons w rest =>
      have one : JournalShape (writeEffect s w s.retention) → rest = [] →
          JournalShape (storeAfter s (begunWrites (w :: rest) (n + 1)) s.retention) := by
        rintro shape rfl
        rw [begunWrites_single]
        exact shape
      cases writing_of h.law.work (by rw [hs]; rfl : s.writes.head? = some w) with
      | allocation job c asked new e host =>
        obtain ⟨-, -, hopen, -, -⟩ := h.law.work.capture c
        have hc : s.retention.header.count < 256 := new.1 ▸ job.slot.isLt
        have allocated := shape_allocation h.shape job.line job.region hopen hc new.2
        have first : ∀ u : State, u.capture = some job → ∀ r, writeEffect u .ALLOCATION r = allocationWrite job.line job.region r := by
          intro u hu r
          simp [writeEffect, hu]
        rcases asked with ⟨-, w⟩ | ⟨-, -, w⟩ <;> rw [hs] at w <;> cases w
        · exact one (by rw [first s c]; exact allocated) rfl
        · have second : ∀ r r' : Retention, writeEffect { s with retention := r } .RELEASE r' = releaseWrite job.slot r' := by
            intro r r'
            simp [writeEffect, c]
          show JournalShape (storeAfter s (.ALLOCATION :: begunWrites [.RELEASE] n) s.retention)
          rw [storeAfter_cons, first _ c]
          cases n with
          | zero => exact allocated
          | succ n =>
            rw [begunWrites_single, storeAfter_cons, second]
            refine shape_releaseWrite allocated _ (allocation_open h.shape hc _ _ hopen) ?_
            rw [allocation_count h.shape hc, new.1]
      | completion job c asked f host =>
        rw [hs] at asked
        cases asked
        obtain ⟨-, -, hopen, -, -⟩ := h.law.work.capture c
        refine one ?_ rfl
        simpa [writeEffect, c] using shape_completion h.shape job.slot (imageOfWords job.words) (f.header_open h hopen) f.1
      | release job c st asked f e host =>
        rw [hs] at asked
        cases asked
        obtain ⟨-, -, hopen, -, -⟩ := h.law.work.capture c
        refine one ?_ rfl
        simpa [writeEffect, c] using shape_releaseWrite h.shape job.slot (f.header_open h hopen) f.2.2
      | sealing p q c r asked hopen =>
        rw [hs] at asked
        cases asked
        exact one (shape_seal h.shape _ hopen) rfl
      | clearing q c r asked =>
        rw [hs] at asked
        cases asked
        exact one (shape_clear _) rfl
      | marking p q c asked hopen =>
        rw [hs] at asked
        cases asked
        exact one (shape_mark h.shape _) rfl
      | retiring p q c hu hc hn asked =>
        rw [hs] at asked
        cases asked
        exact one (shape_retire h.shape _ _ _ hu hc) rfl
      | finishing q c hc asked =>
        rw [hs] at asked
        cases asked
        exact one (shape_finish h.shape _ _ _ hc) rfl
      | discarding q c asked =>
        exact shape_discard s.retention s.uptime.ms

/-- The begun writes leave a trusted store in its shape, while the part runs and while a restart's write is asked for. -/
theorem shape_at_stop (sl : SupplyLaw s) (j : JournalLaw s) (n : Nat) (latch : (storeAfter s (begunWrites s.writes n) s.retention).latch = true) :
    JournalShape (storeAfter s (begunWrites s.writes n) s.retention) := by
  cases run : isRunning s with
  | true => exact shape_begun (j.lawful run) n
  | false =>
    rcases (sl.stopped run).writes with e | ⟨⟨w, e, restart⟩, -⟩
    · rw [e] at latch ⊢
      exact j.journal latch
    · rw [e] at latch ⊢
      cases n with
      | zero => exact j.journal latch
      | succ n =>
        rw [begunWrites_single] at latch ⊢
        cases w <;> first | exact absurd restart Bool.noConfusion | skip
        case BOOT_COUNT => exact shape_bootCount (j.journal latch)
        case INITIALISATION => exact shape_initialisation s.retention

/-- A stopped part with no write asked for, and a trusted store in its shape, has the law over steps. -/
theorem journalLaw_noWrites (stopped : isRunning s = false) (writes : s.writes = [])
    (journal : s.retention.latch = true → JournalShape s.retention) (turns : s.arbiter.hostCount ≤ 4) (restored : s.restore.restored ≤ 256) :
    JournalLaw s where
  journal := journal
  running run := by rw [stopped] at run; cases run
  restart := by rw [writes]; simp
  boot := by rw [writes]; simp
  turns := turns
  restored := restored

/-- A stop keeps the law of the journal; the supply, the reset and the counter of free values are already those of the stop. -/
theorem journalLaw_stop (sl : SupplyLaw s) (j : JournalLaw s) (n : Nat) (supply : SupplyState) (settle : SettleTimer) (rst : ResetLine)
    (force : Bool) (free : Nat) (h : isRunning { s with supply := supply, resetInForce := force } = false) :
    JournalLaw (stopPart n { s with supply := supply, settle := settle, rst := rst, resetInForce := force, free := free }) := by
  have stopped : isRunning { s with supply := supply, settle := settle, rst := rst, resetInForce := force, free := free } = false := h
  rw [stopPart_eq n stopped]
  exact journalLaw_noWrites h rfl (shape_at_stop sl j n) j.turns (Nat.zero_le _)

theorem journalLaw_enterFailing (sl : SupplyLaw s) (j : JournalLaw s) (n free : Nat) : JournalLaw (enterFailing n { s with free := free }) :=
  journalLaw_stop sl j n .FAILING .STOPPED s.rst s.resetInForce free rfl

/-- BACKUP keeps the law: the store stands as it was, or is lost with its latch (R155, R156, R158). -/
theorem journalLaw_enterBackup (low : Bool) (j : JournalLaw s) : JournalLaw (enterBackup low s) := by
  cases low with
  | false => exact journalLaw_noWrites rfl rfl j.journal (Nat.zero_le _) (Nat.zero_le _)
  | true => exact journalLaw_noWrites rfl rfl (fun latch => by cases latch) (Nat.zero_le _) (Nat.zero_le _)

/-- Step 1 of a restart keeps the law (R161). -/
theorem journalLaw_beginRestart (stopped : isRunning s = false) (supply : s.supply = .RUN ∨ s.supply = .SETTLING)
    (journal : s.retention.latch = true → JournalShape s.retention) : JournalLaw (beginRestart s) where
  journal := journal
  running run := by rw [show isRunning (beginRestart s) = isRunning s from rfl, stopped] at run; cases run
  restart w _ _ := ⟨rfl, by rcases supply with e | e <;> simp [beginRestart, startVolatile, e]⟩
  boot mem := by
    have mem := List.mem_singleton.1 mem
    split at mem
    · next latch => exact latch
    · cases mem
  turns := Nat.zero_le _
  restored := Nat.zero_le _

/-- What neither the law of a running part nor that of a stopped one reads may change. -/
theorem JournalLaw.frame (j : JournalLaw s) (view : JournalView s t) (host : t.host = s.host) (still : StandsStill s t) : JournalLaw t := by
  cases run : isRunning s with
  | true => exact ((j.lawful run).frame view host).journalLaw
  | false => exact j.still run still

/-- A part whose supply is not RUN does not run. -/
theorem isRunning_supply (h : s.supply ≠ .RUN) : isRunning s = false := by simp [isRunning, h]

theorem journalLaw_settleEnds (j : JournalLaw s) (h : s.supply = .SETTLING) : JournalLaw (settleEnds s) := by
  have stopped : isRunning s = false := isRunning_supply (by rw [h]; simp)
  unfold settleEnds
  split
  · exact
      { journal := j.journal, running := nofun
        restart := fun w hw e => ⟨(j.restart w hw e).1, by simp⟩
        boot := j.boot, turns := j.turns, restored := j.restored }
  · exact journalLaw_beginRestart stopped (.inr h) j.journal

theorem journalLaw_releaseReset (j : JournalLaw s) (force : s.resetInForce = true) : JournalLaw (releaseReset s) := by
  have ended : s.supply ≠ .RUN → JournalLaw { s with rst := .HIGH, resetInForce := false } := fun h =>
    { journal := j.journal, running := fun run => by rw [isRunning_supply (by exact h)] at run; cases run
      restart := j.restart, boot := j.boot, turns := j.turns, restored := j.restored }
  unfold releaseReset
  split
  · next _ h => exact journalLaw_beginRestart (by simp [isRunning, force]) (.inl h) j.journal
  · next h _ => exact journalLaw_beginRestart (isRunning_supply (by show s.supply ≠ _; rw [h]; simp)) (.inr h) j.journal
  · next h _ => exact ended h

/-- The rows of the supply and of RST# keep the law of the journal. -/
theorem journalLaw_supplyRow {c : Instr} (sl : SupplyLaw s) (j : JournalLaw s) (hc : isSupplyRow c = true) (e : exec c s = .next t) :
    JournalLaw t := by
  have failing := fun n free => journalLaw_enterFailing sl j n free
  cases c <;> first | exact absurd hc Bool.noConfusion | cases e
  case vddFail =>
    split
    · exact failing _ _
    · exact failing _ _
    · exact j
    · exact j
  case vddSwitchOver low =>
    split
    · exact journalLaw_enterBackup low (failing _ _)
    · exact journalLaw_enterBackup low (failing _ _)
    · exact journalLaw_enterBackup low j
    · exact j
  case vddGood =>
    have good : s.supply = .FAILING ∨ s.supply = .BACKUP → JournalLaw { s with supply := .SETTLING, settle := .RUNNING 0 } := fun h =>
      { journal := j.journal, running := nofun
        restart := fun w hw e => by
          obtain ⟨-, hf, hb⟩ := j.restart w hw e
          rcases h with h | h
          · exact absurd h hf
          · exact absurd h hb
        boot := j.boot, turns := j.turns, restored := j.restored }
    split
    · next h => exact good (.inl h)
    · next h => exact good (.inr h)
    · exact j
    · exact j
  case settleTimerExpiry =>
    split
    · next h => exact journalLaw_settleEnds j (by simpa using (Bool.and_eq_true_iff.1 h).1)
    · exact j
  case vbkLow =>
    split
    · next h =>
      have stopped : isRunning (loseStore s) = false := isRunning_supply (by show s.supply ≠ _; rw [h]; simp)
      exact
        { journal := nofun, running := fun run => by rw [stopped] at run; cases run
          restart := j.restart
          boot := fun mem => absurd h (j.restart _ mem rfl).2.2
          turns := j.turns, restored := j.restored }
    · exact j
  case firstPower => exact journalLaw_noWrites rfl rfl nofun (Nat.zero_le _) (Nat.zero_le _)
  case rstAssert =>
    split
    · exact journalLaw_stop sl j _ s.supply s.settle .ASSERTED true _ (by simp [isRunning])
    · exact j
  case rstRelease =>
    have high : JournalLaw { s with rst := .HIGH } :=
      j.frame ⟨rfl, rfl, rfl, rfl, rfl, rfl, rfl, rfl, rfl, rfl⟩ rfl ⟨rfl, rfl, rfl, rfl, rfl, rfl, rfl⟩
    split
    · exact j
    · exact high
    · exact high
    · exact high
    · next h => exact journalLaw_releaseReset j (sl.asserted h)
  case rstFallingEdge =>
    split
    · exact j.frame ⟨rfl, rfl, rfl, rfl, rfl, rfl, rfl, rfl, rfl, rfl⟩ rfl ⟨rfl, rfl, rfl, rfl, rfl, rfl, rfl⟩
    · exact j

/-! Every step. -/

/-- Every command keeps the law of the journal. -/
theorem journalLaw_exec {c : Instr} (sl : SupplyLaw s) (j : JournalLaw s) (e : exec c s = .next t) : JournalLaw t := by
  cases supply : isSupplyRow c with
  | true => exact journalLaw_supplyRow sl j supply e
  | false =>
    cases run : isRunning s with
    | true => exact (lawful_exec (j.lawful run) run supply e).journalLaw
    | false =>
      cases restart : isRestartEnd c with
      | true => exact journalLaw_restartEnd (sl.stopped run) j restart e
      | false => exact j.still run (exec_stopped (sl.stopped run) run (sl.off.2 run) supply restart e)

/-- One microsecond moves a hold's deadline and no other stage. -/
theorem ageHold_stage {job : HostJob} {st : Stage} (h : st = .CAPTURING ∨ st = .AT_MEMORY) : (ageHold job).stage = st ↔ job.stage = st := by
  unfold ageHold
  split
  · next e => rcases h with rfl | rfl <;> simp [e]
  · rfl

/-- One microsecond of an idle part keeps the law of the journal. -/
theorem journalLaw_idleStep (j : JournalLaw s) : JournalLaw (idleStep s) := by
  cases run : isRunning s with
  | false => exact j.still run ⟨rfl, rfl, rfl, rfl, rfl, rfl, rfl⟩
  | true =>
    have h := j.lawful run
    refine (h.view (t := idleStep s) ⟨rfl, rfl, rfl, rfl, rfl, rfl, rfl, rfl, rfl, rfl⟩ ?_ ?_ ?_).journalLaw
    · rintro ⟨req, e, st⟩
      exact ⟨ageHold req, by show s.host.map ageHold = _; rw [e]; rfl, (ageHold_stage (.inl rfl)).2 st⟩
    · rintro ⟨req, e, st⟩
      obtain ⟨req', e', rfl⟩ := Option.map_eq_some_iff.1 e
      exact h.law.room.2 ⟨req', e', (ageHold_stage (.inl rfl)).1 st⟩
    · intro g
      obtain ⟨req, e, st⟩ := h.law.read g
      exact ⟨ageHold req, by show s.host.map ageHold = _; rw [e]; rfl, (ageHold_stage (.inr rfl)).2 st⟩

/-- The law of running and stopping says nothing of the queue of waiting commands. -/
theorem SupplyLaw.withPending (h : SupplyLaw s) (p : List Instr) : SupplyLaw { s with pending := p } where
  off := h.off
  stopped run := { h.stopped run with }
  running := h.running
  asserted := h.asserted
  alert := h.alert

/-- Every step keeps the law of the journal. -/
theorem journalLaw_step (sl : SupplyLaw s) (j : JournalLaw s) (e : step s = .next t) : JournalLaw t := by
  unfold step at e
  split at e
  · cases e
    exact journalLaw_idleStep j
  · next c rest _ =>
    exact journalLaw_exec (sl.withPending rest)
      (j.frame (t := { s with pending := rest }) ⟨rfl, rfl, rfl, rfl, rfl, rfl, rfl, rfl, rfl, rfl⟩ rfl ⟨rfl, rfl, rfl, rfl, rfl, rfl, rfl⟩) e

end Sys2Proof.Machine

open Sys2Proof Sys2Proof.Machine

/-- Settles O44: the law over steps, then the queries of a store of the journal's shape and the writes that keep it. -/
theorem journalShapeKept : Obligations.JournalShapeKept := by
  refine ⟨fun s t sl j e => journalLaw_step sl j e, fun r h => ⟨fun k hk => ?_, lowestFree_full h, newest_eq h, newest_none, ?_⟩⟩
  · rw [lowestFree_dense h (hk ▸ k.isLt)]
    exact congrArg some (Fin.ext hk.symm)
  · exact ⟨shape_allocation h, shape_completion h, shape_releaseWrite h, shape_seal h, fun _ => shape_clear r, fun cause _ => shape_mark h cause,
      fun kind entries uptime hu => ⟨shape_retire h kind entries uptime hu, shape_finish h kind entries uptime, shape_discard r uptime⟩,
      shape_bootCount h, shape_initialisation r⟩

end

section
/-! SUPPORT. The rounds of the arbiter and the port, one equation per round, and what they leave alone (O32, O34). -/

namespace Sys2Proof.Machine

variable {s t u : State}

/-! One round. -/

/-- A free port is granted to the requester that the arbiter chooses (R97). -/
theorem servePort_grants (n : Nat) {h : Holder} (free : s.port.inFlight = none) (grant : s.arbiter.grant = none)
    (choice : chooseHolder s = some h) : servePort (n + 1) s = servePort n (grantPort h s) := by
  rw [servePort, free, grant, choice]
  rfl

/-- The holder's access is issued with the first tag that is not owed (R74). -/
theorem servePort_issues (n : Nat) {h : Holder} {a : AccessRequest} {tag : Tag} (free : s.port.inFlight = none)
    (grant : s.arbiter.grant = some h) (access : holderAccess h s = some a) (first : firstTag s.port.owed 16 s.port.nextTag = some tag) :
    servePort (n + 1) s = { s with port := issued s tag a.kind a.addr a.size a.data } := by
  rw [servePort, free, grant]
  simp only [access, issueAccess, first]
  rfl

/-- With every tag owed the holder has NO_RESPONSE at once (R74). -/
theorem servePort_fails (n : Nat) {h : Holder} {a : AccessRequest} (free : s.port.inFlight = none) (grant : s.arbiter.grant = some h)
    (access : holderAccess h s = some a) (first : firstTag s.port.owed 16 s.port.nextTag = none) :
    servePort (n + 1) s = servePort n (holderResult h (.FAILED .NO_RESPONSE) s) := by
  rw [servePort, free, grant]
  simp only [access, issueAccess, first]
  rfl

theorem arbitrate_running (run : isRunning s = true) : arbitrate s = servePort 64 s := by rw [arbitrate, if_pos run]

/-- What a grant leaves of the port and of the arbiter (R97, R98). -/
theorem grantPort_port (h : Holder) (s : State) : (grantPort h s).port = s.port := by
  cases h
  case QUEUE_HEAD => unfold grantPort startHolder; dsimp only; split <;> rfl
  all_goals rfl

theorem grantPort_arbiter (h : Holder) (s : State) : (grantPort h s).arbiter = { grant := some h, hostCount := countAfterGrant s h } := by
  cases h
  case QUEUE_HEAD => unfold grantPort startHolder; dsimp only; split <;> rfl
  all_goals rfl

/-- A grant at a free port with a tag left issues the access of the requester chosen (R97, R74). -/
theorem arbitrate_issues {h : Holder} {a : AccessRequest} {tag : Tag} (run : isRunning s = true) (free : s.port.inFlight = none)
    (grant : s.arbiter.grant = none) (choice : chooseHolder s = some h) (access : holderAccess h (grantPort h s) = some a)
    (first : firstTag s.port.owed 16 s.port.nextTag = some tag) :
    arbitrate s = { grantPort h s with port := issued s tag a.kind a.addr a.size a.data } := by
  have port := grantPort_port h s
  rw [arbitrate_running run, servePort_grants 63 free grant choice,
    servePort_issues 62 (by rw [port, free]) (by rw [grantPort_arbiter]) access (by rw [port, first])]
  simp only [issued, port]

/-! The requester chosen. -/

theorem captureWaits_some {job : CaptureJob} (c : s.capture = some job) : captureWaits s = (job.stage == .WAITING) := by
  rw [captureWaits, c]
  rfl

theorem hostReadWaits_some {job : HostJob} (h : s.host = some job) : hostReadWaits s = (job.stage == .PORT_WAIT) := by
  rw [hostReadWaits, h]
  rfl

theorem headWaits_cons {e : QueueEntry} {rest : List QueueEntry} (q : s.queue = e :: rest) : headWaits s = !e.inFlight := by
  rw [headWaits, q]
  rfl

theorem choose_capture (turn : ¬ (s.arbiter.hostCount = 4 ∧ headWaits s = true)) (waits : captureWaits s = true) :
    chooseHolder s = some .CAPTURE := by
  rw [chooseHolder, if_neg turn, if_pos waits]

theorem choose_hostRead (turn : ¬ (s.arbiter.hostCount = 4 ∧ headWaits s = true)) (capture : captureWaits s = false)
    (waits : hostReadWaits s = true) : chooseHolder s = some .HOST_READ := by
  rw [chooseHolder, if_neg turn, capture, if_neg Bool.false_ne_true, if_pos waits]

theorem choose_head (turn : s.arbiter.hostCount = 4 ∨ (captureWaits s = false ∧ hostReadWaits s = false)) (waits : headWaits s = true) :
    chooseHolder s = some .QUEUE_HEAD := by
  unfold chooseHolder
  split
  · rfl
  · next fewer =>
    rcases turn with full | ⟨capture, read⟩
    · exact absurd ⟨full, waits⟩ fewer
    · simp [capture, read]

theorem choose_restore (capture : captureWaits s = false) (read : hostReadWaits s = false) (head : headWaits s = false)
    (waits : s.restore.state = .WAITING) : chooseHolder s = some .RESTORE := by
  simp [chooseHolder, capture, read, head, waits]

/-- The count after a grant to the host side (R98). -/
theorem countAfterGrant_hostSide (h : Holder) (hs : h = .HOST_READ ∨ h = .CAPTURE) :
    countAfterGrant s h = if s.queue = [] then 0 else s.arbiter.hostCount + 1 := by
  rcases hs with rfl | rfl <;> simp [countAfterGrant]

theorem grantPort_capture {job : CaptureJob} (c : s.capture = some job) : grantPort .CAPTURE s =
    { s with
      capture := some { job with stage := .READING }
      arbiter := { grant := some .CAPTURE, hostCount := if s.queue = [] then 0 else s.arbiter.hostCount + 1 } } := by
  rw [← countAfterGrant_hostSide .CAPTURE (.inr rfl)]
  simp only [grantPort, startHolder, c]
  rfl

theorem grantPort_hostRead {job : HostJob} (h : s.host = some job) : grantPort .HOST_READ s =
    { s with
      host := some { job with stage := .AT_MEMORY }
      arbiter := { grant := some .HOST_READ, hostCount := if s.queue = [] then 0 else s.arbiter.hostCount + 1 } } := by
  rw [← countAfterGrant_hostSide .HOST_READ (.inl rfl)]
  simp only [grantPort, startHolder, h]
  rfl

theorem grantPort_head {e : QueueEntry} {rest : List QueueEntry} (q : s.queue = e :: rest) : grantPort .QUEUE_HEAD s =
    { s with queue := { e with inFlight := true } :: rest, arbiter := { grant := some .QUEUE_HEAD, hostCount := 0 } } := by
  simp only [grantPort, startHolder, q]
  rfl

theorem grantPort_restore (s : State) : grantPort .RESTORE s =
    { s with restore := { s.restore with state := .WRITING }, arbiter := { grant := some .RESTORE, hostCount := 0 } } := rfl

/-- The restore engine asks for the word at its cursor (R59). -/
theorem restore_access {k : SlotNo} {image : Image} (slot : s.restore.slot = some k) (full : (s.retention.slots.get k).image = some image) :
    holderAccess .RESTORE s = some { kind := .WRITE, addr := wordAddr (s.retention.slots.get k).line s.restore.word.val, size := .four
                                     data := (image.get s.restore.word).toList } := by
  simp [holderAccess, cursorAddr, slot, full]

/-! What the rounds leave alone while some tag is not owed. -/

/-- The arbiter and the port at work: the port, the grant and the stages of the requesters move alone (R74, R96). -/
structure PortMoved (s t : State) : Prop where
  same : t = { s with
    port := t.port, arbiter := t.arbiter, host := t.host, capture := t.capture, queue := t.queue, restore := t.restore }
  owed : t.port.owed = s.port.owed
  host : t.host.map (fun job => (job.op, job.addr, job.size, job.tag, job.region)) =
    s.host.map (fun job => (job.op, job.addr, job.size, job.tag, job.region))
  capture : t.capture.map (fun job => { job with stage := .WAITING }) = s.capture.map (fun job => { job with stage := .WAITING })
  queue : t.queue.map (fun e => (e.addr, e.size, e.data, e.cls, e.region, e.epochTag)) =
    s.queue.map (fun e => (e.addr, e.size, e.data, e.cls, e.region, e.epochTag))
  restore : t.restore = { s.restore with state := t.restore.state }

theorem PortMoved.refl (s : State) : PortMoved s s := ⟨rfl, rfl, rfl, rfl, rfl, rfl⟩

theorem PortMoved.trans (h : PortMoved s t) (k : PortMoved t u) : PortMoved s u where
  same := by rw [k.same, h.same]
  owed := k.owed.trans h.owed
  host := k.host.trans h.host
  capture := k.capture.trans h.capture
  queue := k.queue.trans h.queue
  restore := by rw [k.restore, h.restore]

theorem moved_grantPort (h : Holder) (s : State) : PortMoved s (grantPort h s) := by
  unfold grantPort startHolder
  cases h with
  | HOST_READ => exact ⟨rfl, rfl, by dsimp only; rw [Option.map_map]; rfl, rfl, rfl, rfl⟩
  | CAPTURE => exact ⟨rfl, rfl, rfl, by dsimp only; rw [Option.map_map]; rfl, rfl, rfl⟩
  | QUEUE_HEAD =>
    dsimp only
    split
    · next q => exact ⟨by rw [q], rfl, rfl, rfl, by rw [q], rfl⟩
    · next q => exact ⟨rfl, rfl, rfl, rfl, by rw [q]; rfl, rfl⟩
  | RESTORE => exact ⟨rfl, rfl, rfl, rfl, rfl, rfl⟩

/-- With no tag found, each of the n tags from the first on is owed (R74). -/
theorem owed_of_firstTag_none {owed : Vector Bool 16} {n : Nat} {tag : Tag} (h : firstTag owed n tag = none) :
    ∀ i < n, owed.get (tag + BitVec.ofNat 4 i).toFin = true := by
  induction n generalizing tag with
  | zero => intro i hi; omega
  | succ n ih =>
    unfold firstTag at h
    split at h
    · next here =>
      intro i hi
      cases i with
      | zero => simpa using here
      | succ i =>
        have step : tag + BitVec.ofNat 4 (i + 1) = tag + 1 + BitVec.ofNat 4 i := by
          rw [BitVec.ofNat_add, BitVec.add_assoc, BitVec.add_comm 1]
          rfl
        rw [step]
        exact ih h i (by omega)
    · cases h

/-- While some tag is not owed the port finds a tag (R74). -/
theorem firstTag_some {owed : Vector Bool 16} (first : Tag) (h : ∃ tag : Tag, owed.get tag.toFin = false) :
    ∃ tag, firstTag owed 16 first = some tag := by
  obtain ⟨tag, free⟩ := h
  cases e : firstTag owed 16 first with
  | some tag => exact ⟨tag, rfl⟩
  | none =>
    have := owed_of_firstTag_none e (tag - first).toNat (tag - first).isLt
    rw [BitVec.ofNat_toNat, BitVec.setWidth_eq, BitVec.add_comm, BitVec.sub_add_cancel, free] at this
    cases this

/-- With all tags owed the port finds none (R74). -/
theorem firstTag_none {owed : Vector Bool 16} (h : ∀ tag : Tag, owed.get tag.toFin = true) (n : Nat) (tag : Tag) :
    firstTag owed n tag = none := by
  induction n generalizing tag with
  | zero => rfl
  | succ n ih => rw [firstTag, if_pos (h tag), ih]

theorem moved_servePort (n : Nat) (s : State) (h : ∃ tag : Tag, s.port.owed.get tag.toFin = false) : PortMoved s (servePort n s) := by
  induction n generalizing s with
  | zero => exact .refl s
  | succ n ih =>
    unfold servePort
    split
    · exact .refl s
    · split
      · split
        · exact .refl s
        · next x _ =>
          have moved := moved_grantPort x s
          exact moved.trans (ih _ (by rw [moved.owed]; exact h))
      · split
        · have moved : PortMoved s (releasePort s) := ⟨rfl, rfl, rfl, rfl, rfl, rfl⟩
          exact moved.trans (ih _ h)
        · next x _ a _ =>
          obtain ⟨tag, first⟩ := firstTag_some s.port.nextTag h
          simp only [issueAccess, first, Option.map_some]
          exact ⟨rfl, rfl, rfl, rfl, rfl, rfl⟩

theorem moved_arbitrate (s : State) (h : ∃ tag : Tag, s.port.owed.get tag.toFin = false) : PortMoved s (arbitrate s) := by
  unfold arbitrate
  split
  · exact moved_servePort 64 s h
  · exact .refl s

end Sys2Proof.Machine

open Sys2Proof Sys2Proof.Machine

/-- Settles O32: each clause names the requester chosen, and the round after its grant issues its access. -/
theorem arbiterGrantsThePort : Obligations.ArbiterGrantsThePort := by
  intro s tag run free grant first
  refine ⟨fun job c st turn => ?_, fun job h st capture turn => ?_, fun e rest q waits turn => ?_,
    fun k image waits slot full capture read head => ?_⟩
  · have choice := choose_capture turn (by simp [captureWaits_some c, st])
    have granted := grantPort_capture c
    rw [arbitrate_issues run free grant choice (a := ⟨.READ, wordAddr job.line job.words.length, .four, []⟩) (by rw [granted]; rfl) first,
      granted]
  · have choice := choose_hostRead turn capture (by simp [hostReadWaits_some h, st])
    have granted := grantPort_hostRead h
    rw [arbitrate_issues run free grant choice (a := ⟨.READ, job.addr, job.size, []⟩) (by rw [granted]; rfl) first, granted]
  · have choice := choose_head turn (by simp [headWaits_cons q, waits])
    have granted := grantPort_head q
    rw [arbitrate_issues run free grant choice (a := ⟨.WRITE, e.addr, e.size, e.data⟩) (by rw [granted]; rfl) first, granted]
  · have choice := choose_restore capture read head waits
    rw [arbitrate_issues run free grant choice (restore_access (s := grantPort .RESTORE s) slot full) first, grantPort_restore]

end

section
/-! SUPPORT. What a failed access at a port with every tag owed makes of its holder, and that the port itself stays (O34). -/

namespace Sys2Proof.Machine

variable {s t : State}

/-! No operation of the blocks behind the port touches it. -/

theorem postWrite_port (a : Addr) (z : Size) (d : List Byte) (c : WriteClass) (g : Option RegionNo) (s : State) :
    (postWrite a z d c g s).port = s.port := by
  unfold postWrite
  rw [meterCount_eq]
  show (answerHost _ _ _ _).port = _
  rw [answerHost_eq]

theorem refuseHost_port (reason : Reason) (region : Option RegionNo) (s : State) : (refuseHost reason region s).port = s.port := by
  rw [(answered_refuseHost s reason region).same]

theorem recordFault_port (source : FaultSource) (cause : Cause) (addr : Addr) (epoch : EpochNo) (s : State) :
    (recordFault source cause addr epoch s).port = s.port := by rw [recordFault_eq]

theorem guardHost_port (job : HostJob) (region : RegionNo) (s : State) : (guardHost job region s).port = s.port := by
  unfold guardHost
  split
  · exact postWrite_port ..
  · exact refuseHost_port ..
  · rfl

theorem applyVerdict_port (job : HostJob) (deadline : Option Nat) (s : State) (v : Verdict) :
    (applyVerdict job deadline s v).port = s.port := by
  cases v with
  | REFUSE reason region => exact refuseHost_port ..
  | UNLOGGED =>
    show (answerHost _ _ _ s).port = _
    rw [answerHost_eq]
  | HOLD region => rfl
  | READ region => rfl
  | POST region => exact postWrite_port ..
  | GUARD region => exact guardHost_port ..

theorem reevaluate_port (s : State) : (reevaluate s).port = s.port := by
  unfold reevaluate
  split
  · rfl
  · split
    · exact applyVerdict_port ..
    · rfl

theorem rollbackDrainCheck_port (s : State) : (rollbackDrainCheck s).port = s.port := by
  unfold rollbackDrainCheck
  split <;> rfl

theorem commitDrainCheck_port (s : State) : (commitDrainCheck s).port = s.port := by
  unfold commitDrainCheck faultCheck
  split
  · split
    · rw [rollbackDrainCheck_port]
      exact reevaluate_port _
    · rfl
  · rfl

theorem drainCheck_port (s : State) : (drainCheck s).port = s.port := by
  unfold drainCheck
  split
  · exact commitDrainCheck_port s
  · exact rollbackDrainCheck_port s
  · rfl

theorem endHazard_port (s : State) : (endHazard s).port = s.port := by
  unfold endHazard
  split
  · split <;> rfl
  · rfl

theorem failedPost_port (cause : Cause) (e : QueueEntry) (s : State) : (failedPost cause e s).port = s.port := by
  unfold failedPost
  dsimp only
  split <;> exact recordFault_port ..

theorem enterStalled_port (cause : Cause) (s : State) : (enterStalled cause s).port = s.port := by
  unfold enterStalled changeState
  rw [reevaluate_port]
  exact recordFault_port ..

/-- A failed access leaves the port alone, whoever holds the grant. -/
theorem holderResult_failed_port (h : Holder) (cause : Cause) (s : State) : (holderResult h (.FAILED cause) s).port = s.port := by
  cases h with
  | HOST_READ =>
    show (hostReadResult _ s).port = _
    unfold hostReadResult
    dsimp only
    split
    · rfl
    · rw [recordFault_port, refuseHost_port, releasePort_port]
  | CAPTURE =>
    show (captureResult _ s).port = _
    unfold captureResult abandonedReadEnds
    split
    · rfl
    · split
      · rfl
      · dsimp only
        split
        · rfl
        · exact drainCheck_port _
      · rfl
      · rfl
  | QUEUE_HEAD =>
    show (headResult _ s).port = _
    unfold headResult
    split
    · rfl
    · dsimp only
      rw [drainCheck_port, endHazard_port, reevaluate_port, failedPost_port]
      rfl
  | RESTORE =>
    show (restoreResult _ s).port = _
    unfold restoreResult
    split
    · rfl
    · dsimp only
      split
      · rfl
      · exact enterStalled_port _ _

/-- A free port with every tag owed issues nothing, however many rounds it serves (R74). -/
theorem servePort_owed (n : Nat) (s : State) (free : s.port.inFlight = none) (owed : ∀ tag : Tag, s.port.owed.get tag.toFin = true) :
    (servePort n s).port = s.port := by
  induction n generalizing s with
  | zero => rfl
  | succ n ih =>
    have go : ∀ u : State, u.port = s.port → (servePort n u).port = s.port := fun u e =>
      (ih u (by rw [e, free]) (by rw [e]; exact owed)).trans e
    unfold servePort
    split
    · rfl
    · split
      · split
        · rfl
        · exact go _ (grantPort_port _ s)
      · split
        · exact go _ rfl
        · simp only [issueAccess, firstTag_none owed, Option.map_none]
          exact go _ (holderResult_failed_port ..)

/-- With every tag owed a grant ends at once with NO_RESPONSE, where nothing waits after it (R74, R97). -/
theorem arbitrate_fails {h : Holder} {a : AccessRequest} (run : isRunning s = true) (free : s.port.inFlight = none)
    (owed : ∀ tag : Tag, s.port.owed.get tag.toFin = true) (grant : s.arbiter.grant = none) (choice : chooseHolder s = some h)
    (access : holderAccess h (grantPort h s) = some a) (result : holderResult h (.FAILED .NO_RESPONSE) (grantPort h s) = t)
    (rest : PortAtRest t) : arbitrate s = t := by
  have port := grantPort_port h s
  rw [arbitrate_running run, servePort_grants 63 free grant choice,
    servePort_fails 62 (by rw [port, free]) (by rw [grantPort_arbiter]) access (by rw [port]; exact firstTag_none owed 16 _), result,
    servePort_rest 62 rest]

/-- The failed write of a queue head, as one update (R93, R94). -/
theorem failedPost_eq (cause : Cause) (e : QueueEntry) (s : State) : failedPost cause e s =
    recordFault .POSTED_WRITE cause e.addr e.epochTag { s with ctl := { s.ctl with faulted := s.ctl.faulted || e.cls == .GUARDED } } := by
  unfold failedPost
  dsimp only
  by_cases g : e.cls = .GUARDED
  · rw [if_pos g, beq_iff_eq.2 g, Bool.or_true, recordFault_eq, recordFault_eq]
    rfl
  · rw [if_neg g, beq_eq_false_iff_ne.2 g, Bool.or_false]

/-- The third failed attempt on a restore word, as one update and a re-evaluation (R67). -/
theorem enterStalled_eq (cause : Cause) (s : State) : enterStalled cause s =
    reevaluate (setEvent .STALL (recordFault .RESTORE_WRITE cause (cursorAddr s) (openEpoch s.retention)
      { s with
        arbiter := { s.arbiter with grant := none }
        restore := { s.restore with state := .HALTED }
        ctl := { s.ctl with state := .STALLED, stallOrigin := some (stallOriginOf s.ctl.state) } })) := by
  unfold enterStalled changeState
  rw [recordFault_eq, recordFault_eq]
  rfl

theorem stallOriginOf_eq (st : EpochState) : stallOriginOf st = if st = .RECOVERY then .RECOVERY else .ROLLBACK := by cases st <;> rfl

/-- Every attempt left on a restore word fails in its own round, and the last one stalls the engine (R60, R67). -/
theorem servePort_attempts (n m : Nat) (s : State) {k : SlotNo} (free : s.port.inFlight = none)
    (owed : ∀ tag : Tag, s.port.owed.get tag.toFin = true) (grant : s.arbiter.grant = some .RESTORE) (writes : s.restore.state = .WRITING)
    (slot : s.restore.slot = some k) (full : (s.retention.slots.get k).image.isSome = true) (left : s.restore.attempt + m = 3) :
    servePort (n + m + 1) s = servePort n (enterStalled .NO_RESPONSE { s with restore := { s.restore with attempt := 3 } }) := by
  obtain ⟨image, full'⟩ := Option.isSome_iff_exists.1 full
  induction m generalizing s with
  | zero =>
    have last : s.restore.attempt = 3 := left
    rw [servePort_fails n free grant (restore_access slot full') (firstTag_none owed 16 _)]
    have same : ({ s with restore := { s.restore with attempt := 3 } } : State) = s := by rw [← last]
    have stalls : holderResult .RESTORE (.FAILED .NO_RESPONSE) s = enterStalled .NO_RESPONSE s := by
      simp [holderResult, restoreResult, writes, last]
    rw [same, stalls]
  | succ m ih =>
    have fewer : s.restore.attempt < 3 := by omega
    show servePort (n + m + 1 + 1) s = _
    rw [servePort_fails (n + m + 1) free grant (restore_access slot full') (firstTag_none owed 16 _)]
    have next : holderResult .RESTORE (.FAILED .NO_RESPONSE) s = { s with restore := { s.restore with attempt := s.restore.attempt + 1 } } := by
      simp [holderResult, restoreResult, writes, fewer]
    rw [next, ih { s with restore := { s.restore with attempt := s.restore.attempt + 1 } } free owed grant writes slot full
      (by show s.restore.attempt + 1 + m = 3; omega) full']

end Sys2Proof.Machine

open Sys2Proof Sys2Proof.Machine

/-- Settles O34: the rounds move the port and the stages alone while a tag is left; with none left each holder's failure is one round. -/
theorem arbitrationFrame : Obligations.ArbitrationFrame := by
  refine ⟨fun s => ⟨fun h => ?_, arbitrate_stopped, arbitrate_rest⟩, fun s run free owed => ⟨?_, ?_, ?_, ?_, ?_⟩⟩
  · have moved := moved_arbitrate s h
    exact ⟨moved.same, moved.owed, moved.host, moved.capture, moved.queue, moved.restore⟩
  · rw [arbitrate_running run]
    exact servePort_owed 64 s free owed
  · rintro job t grant choice h rest rfl
    have granted := grantPort_hostRead h
    refine arbitrate_fails run free owed grant choice (a := ⟨.READ, job.addr, job.size, []⟩) (by rw [granted]; rfl) ?_ rest
    rw [granted]
    show recordFault .HOST_READ .NO_RESPONSE job.addr (openEpoch s.retention) (refuseHost .MEMORY job.region (releasePort _)) = _
    rw [refuseHost_some _ _ (s := releasePort _) rfl, reasonEvent_plain _ _ (by simp) (by simp)]
    rfl
  · rintro job t grant choice c rest rfl
    have granted := grantPort_capture c
    refine arbitrate_fails run free owed grant choice (a := ⟨.READ, wordAddr job.line job.words.length, .four, []⟩) (by rw [granted]; rfl)
      ?_ rest
    rw [granted]
    rfl
  · rintro e queue t grant choice q rest rfl
    have granted := grantPort_head q
    refine arbitrate_fails run free owed grant choice (a := ⟨.WRITE, e.addr, e.size, e.data⟩) (by rw [granted]; rfl) ?_ rest
    rw [granted]
    show drainCheck (endHazard (reevaluate (failedPost .NO_RESPONSE { e with inFlight := true } (releasePort _)))) = _
    rw [failedPost_eq]
    rfl
  · rintro k t holds slot full attempt rest rfl
    obtain ⟨m, left⟩ := Nat.exists_eq_add_of_le attempt
    rw [arbitrate_running run]
    have cursor : cursorAddr s = wordAddr (s.retention.slots.get k).line s.restore.word.val := by simp [cursorAddr, slot]
    rw [← stallOriginOf_eq, ← cursor] at rest ⊢
    rcases holds with ⟨grant, choice⟩ | ⟨grant, writes⟩
    · rw [if_pos grant] at rest ⊢
      have rounds := servePort_attempts (62 - m) m (grantPort .RESTORE s) free owed rfl rfl slot full left.symm
      rw [show 62 - m + m + 1 = 63 by omega, enterStalled_eq] at rounds
      rw [servePort_grants 63 free grant choice, rounds]
      exact servePort_rest (62 - m) rest
    · rw [if_neg (by rw [grant]; simp)] at rest ⊢
      have rounds := servePort_attempts (63 - m) m s free owed grant writes slot full left.symm
      rw [show 63 - m + m + 1 = 64 by omega, enterStalled_eq] at rounds
      rw [rounds]
      exact servePort_rest (63 - m) rest

end

section
/-! SUPPORT. The ends of the retention writes as updates of the state (O35, O36, O37, O39, O40, O41, O42). -/

namespace Sys2Proof.Machine

variable {s t : State}

/-- The end of the write in progress acts on the state with that write no longer asked for (R1). -/
theorem whenWriteEnds_head {w : RetentionWrite} (h : s.writes.head? = some w) (f : State → State) :
    whenWriteEnds w f s = f (endWrite s) := if_pos h

/-- With a slot left FREE the allocation write fills it (R10). -/
theorem allocationWrite_some {r : Retention} {k : SlotNo} (h : lowestFree r = some k) (line : Line) (region : RegionNo) :
    allocationWrite line region r =
      { putSlot r k { state := .FILLING, line := line, region := region, seq := r.header.nextSeq, image := none } with
        header := { r.header with
          state := if r.header.state = .EMPTY then .OPEN else r.header.state
          count := r.header.count + 1, nextSeq := r.header.nextSeq + 1 } } := by
  rw [allocationWrite, h]

/-- The high-water check, as one update of the event unit (R23). -/
theorem highWaterCheck_eq (s : State) : highWaterCheck s =
    { s with events := if s.retention.header.count = s.cfg.highWater then (setEvent .JHIGH s).events else s.events } := by
  unfold highWaterCheck
  split <;> rfl

theorem allocatedStage_eq (st : CaptureStage) : allocatedStage st = if st = .ALLOCATING then .WAITING else st := by cases st <;> rfl

/-- A refusal of a request in progress for a reason without its own event (R86, R134). -/
theorem refuseHost_plain {reason : Reason} (region : Option RegionNo) {job : HostJob} (h : s.host = some job) (h1 : reason ≠ .FULL)
    (h2 : reason ≠ .HOLD_TIMEOUT) : refuseHost reason region s = logRefusal (opKind job.op) job.addr job.size reason region
      { s with host := none, responses := s.responses ++ [{ status := .ERR, data := [], tag := job.tag, reason := some reason }] } := by
  rw [refuseHost_some _ _ h, reasonEvent_plain _ _ h1 h2]

/-- With work left the drain check does nothing (R37, R56). -/
theorem drainCheck_busy (h : isDrained s = false) : drainCheck s = s := by
  unfold drainCheck commitDrainCheck rollbackDrainCheck
  rw [h]
  split <;> simp

/-- The retire write frees the newest slot, and the last one ends the unwind (R15). -/
theorem retireWrite_some {r : Retention} {k : SlotNo} (newest : newestSlot r = some k) (kind : OutcomeKind) (entries : Nat)
    (uptime : BitVec 32) :
    retireWrite kind entries uptime r =
      if r.header.count = 1 then
        unwindEnded (endingOutcome kind entries uptime r) { putSlot r k freeSlot with header := { r.header with count := r.header.count - 1 } }
      else { putSlot r k freeSlot with header := { r.header with count := r.header.count - 1 } } := by
  rw [retireWrite, newest]

/-- The newest slot is one of a journal that is not empty (R8). -/
theorem count_of_newest {r : Retention} {k : SlotNo} (newest : newestSlot r = some k) : r.header.count ≠ 0 := by
  intro zero
  rw [newest_none zero] at newest
  cases newest

end Sys2Proof.Machine

open Sys2Proof Sys2Proof.Machine

/-- Settles O35: the write in closed form, the high-water check, and the capture it belongs to asking for the port. -/
theorem allocationWriteEnds : Obligations.AllocationWriteEnds := by
  intro s job k head c free
  have ends : allocationEnds (endWrite s) = arbitrate
      { highWaterCheck (indexGain job.line k (makeWrite .ALLOCATION (endWrite s))) with
        capture := some { job with stage := allocatedStage job.stage, slot := k } } := by
    unfold allocationEnds
    rw [show (endWrite s).capture = some job from c, show lowestFree (endWrite s).retention = some k from free]
  show Host.Outcome.next (whenWriteEnds .ALLOCATION allocationEnds s) = _
  rw [whenWriteEnds_head head, ends, makeWrite_allocation (s := endWrite s) c, highWaterCheck_eq, allocatedStage_eq, store,
    show (endWrite s).retention = s.retention from rfl, allocationWrite_some free]
  rfl

/-- Settles O36: the completion writes the slot alone, and the one capture waiting on it posts its write. -/
theorem completionWriteEnds : Obligations.CompletionWriteEnds := by
  intro s job req head c host
  constructor
  · have ends : completionEnds (endWrite s) = arbitrate (drainCheck
        { postWrite job.addr job.size job.data .GUARDED (some job.region) (makeWrite .COMPLETION (endWrite s)) with capture := none }) := by
      unfold completionEnds
      rw [show (endWrite s).capture = some job from c]
    show Host.Outcome.next (whenWriteEnds .COMPLETION completionEnds s) = _
    rw [whenWriteEnds_head head, ends, makeWrite_completion (s := endWrite s) c, postWrite_some (s := store _ (endWrite s)) _ _ _ _ _ host]
    have meters : (meterCount (some job.region) job.size (store (completionWrite job.slot (imageOfWords job.words)) (endWrite s))).meters =
        (meterCount (some job.region) job.size s).meters := meterCount_congr _ _ rfl rfl
    rw [meters, drainCheck_busy (by simp [isDrained])]
    rfl
  · intro i
    exact get_tabulate _ i

/-- Settles O37: the release in closed form, then the refusal that the kind of release names. -/
theorem releaseWriteEnds : Obligations.ReleaseWriteEnds := by
  intro s job req head c host
  have released : indexLose job.slot (makeWrite .RELEASE (endWrite s)) = indexLose job.slot (store (releaseWrite job.slot) (endWrite s)) := by
    rw [makeWrite_release (s := endWrite s) c]
  have refused : ∀ reason : Reason, reason ≠ .FULL → reason ≠ .HOLD_TIMEOUT →
      refuseHost reason (some job.region) (indexLose job.slot (store (releaseWrite job.slot) (endWrite s))) =
        logRefusal (opKind req.op) req.addr req.size reason (some job.region) (slotReleased job.slot req.tag reason s) :=
    fun reason h1 h2 => refuseHost_plain (s := indexLose job.slot (store (releaseWrite job.slot) (endWrite s))) _ host h1 h2
  refine ⟨fun cause st failed => ?_, fun st grant => ?_, fun st grant => ?_⟩
  all_goals
    show Host.Outcome.next (whenWriteEnds .RELEASE releaseEnds s) = _
    rw [whenWriteEnds_head head, releaseEnds, show (endWrite s).capture = some job from c]
    dsimp only
    rw [released]
  · have epoch : openEpoch (logRefusal (opKind req.op) req.addr req.size .MEMORY (some job.region)
        (slotReleased job.slot req.tag .MEMORY s)).retention = s.retention.header.epoch + 1 := by
      rw [logRefusal_eq]
      rfl
    rw [if_neg (by rw [st]; simp), refused .MEMORY (by simp) (by simp), captureFault, failed, ← epoch]
  · rw [if_pos st, refused .ABORTED (by simp) (by simp), show (endWrite s).arbiter.grant = some .CAPTURE from grant]
    exact congrArg Host.Outcome.next (if_pos rfl)
  · rw [if_pos st, refused .ABORTED (by simp) (by simp), if_neg (show (endWrite s).arbiter.grant ≠ some .CAPTURE from grant)]

/-- Settles O39: the seal sets the header and E, and the staged table is applied entry by entry. -/
theorem sealWriteEnds : Obligations.SealWriteEnds := by
  intro s head
  refine ⟨sealEnds (endWrite s), ?_, rfl, fun i => ?_, rfl, rfl, rfl⟩
  · show Host.Outcome.next (whenWriteEnds .SEAL sealEnds s) = _
    rw [whenWriteEnds_head head]
  · have active : (sealEnds (endWrite s)).active.get i = if (s.staged.get i).touched then (s.staged.get i).entry else s.active.get i :=
      get_tabulate _ i
    have meters : (sealEnds (endWrite s)).meters.get i = if (s.staged.get i).touched then clearMeter else s.meters.get i :=
      get_tabulate _ i
    refine ⟨fun touched => ?_, fun untouched => ?_, get_tabulate _ i⟩
    · rw [active, meters, if_pos touched, if_pos touched]
      exact ⟨rfl, rfl⟩
    · rw [active, meters, untouched]
      exact ⟨rfl, rfl⟩

/-- Settles O40: both writes leave the cleared store and share the entry to OPEN. -/
theorem clearAndDiscardWritesEnd : Obligations.ClearAndDiscardWritesEnd := by
  intro s
  refine ⟨fun head => ?_, fun head => ?_⟩
  · show Host.Outcome.next (whenWriteEnds .CLEAR clearEnds s) = _
    rw [whenWriteEnds_head head]
    rfl
  · show Host.Outcome.next (whenWriteEnds .DISCARD discardEnds s) = _
    rw [whenWriteEnds_head head]
    rfl

/-- Settles O41: the mark sets the header alone, and the engine selects by the newest slot. -/
theorem unwindingMarkEnds : Obligations.UnwindingMarkEnds := by
  intro s
  refine ⟨fun head => ?_, fun recovery => ?_, fun other => ⟨fun cause => ?_, fun cause => ?_, fun cause => ?_⟩, fun empty => ?_,
    fun k newest full => ?_, fun k newest filling => ?_⟩
  · show Host.Outcome.next (whenWriteEnds .MARK markEnds s) = _
    rw [whenWriteEnds_head head]
    rfl
  · rw [markCause, if_pos recovery]
  · rw [markCause, if_neg other, cause]
  · rw [markCause, if_neg other, cause]
  · rw [markCause, if_neg other, cause]
  · rw [selectSlot, empty]
    rfl
  · rw [selectSlot, newest]
    exact if_pos full
  · rw [selectSlot, newest]
    exact if_neg filling

/-- Settles O42: the retire in closed form, then either the next slot or the end of the unwind, which the finish shares. -/
theorem retireAndFinishWritesEnd : Obligations.RetireAndFinishWritesEnd := by
  intro s
  have ends : ∀ k, newestSlot s.retention = some k → retireEnds (endWrite s) = arbitrate
      (if (retireWrite (unwindKind s) s.restore.restored s.uptime.ms s.retention).header.count = 0
        then unwindOver (indexLose k (makeWrite .RETIRE (endWrite s))) else selectSlot (indexLose k (makeWrite .RETIRE (endWrite s)))) := by
    intro k newest
    unfold retireEnds
    rw [show newestSlot (endWrite s).retention = some k from newest]
    rfl
  refine ⟨fun k head newest more => ?_, fun k head newest last => ?_, fun head => ?_, fun recovery => ?_, fun other => ?_⟩
  · have count := count_of_newest newest
    have write := retireWrite_some newest (unwindKind s) s.restore.restored s.uptime.ms
    rw [if_neg more] at write
    show Host.Outcome.next (whenWriteEnds .RETIRE retireEnds s) = _
    rw [whenWriteEnds_head head, ends k newest, if_neg (by rw [write]; show s.retention.header.count - 1 ≠ 0; omega), makeWrite, store]
    show Host.Outcome.next (arbitrate (selectSlot (indexLose k
      { endWrite s with retention := retireWrite (unwindKind s) s.restore.restored s.uptime.ms s.retention }))) = _
    rw [write]
    rfl
  · have write := retireWrite_some newest (unwindKind s) s.restore.restored s.uptime.ms
    rw [if_pos last, last] at write
    show Host.Outcome.next (whenWriteEnds .RETIRE retireEnds s) = _
    rw [whenWriteEnds_head head, ends k newest, if_pos (by rw [write]; rfl), makeWrite, store]
    show Host.Outcome.next (arbitrate (unwindOver (indexLose k
      { endWrite s with retention := retireWrite (unwindKind s) s.restore.restored s.uptime.ms s.retention }))) = _
    rw [write]
    rfl
  · show Host.Outcome.next (whenWriteEnds .FINISH finishEnds s) = _
    rw [whenWriteEnds_head head]
    rfl
  · exact ⟨if_pos recovery, if_pos recovery⟩
  · refine ⟨if_neg other, fun cause => ?_, fun cause => ?_, fun cause => ?_⟩
    all_goals rw [unwindKind, if_neg other, cause]

/-- Settles O5: the reset state evaluates to each value. -/
theorem resetValues : Obligations.ResetValues := by
  have get : ∀ {α : Type} {n : Nat} (x : α) (i : Fin n), (Vector.replicate n x).get i = x := by
    intro α n x i
    simp [Vector.get_eq_getElem]
  refine ⟨rfl, get _, rfl, rfl, rfl, rfl, rfl, rfl, rfl, get _, fun i => ?_, get _, rfl, rfl, rfl, rfl, fun k => ?_, rfl, rfl, rfl, rfl, rfl⟩
  · have staged : State.reset.staged.get i = { entry := defaultRegion, touched := false } := get _ i
    have active : State.reset.active.get i = defaultRegion := get _ i
    rw [staged, active]
    exact ⟨rfl, rfl⟩
  · show (0b000000001100#12).getLsbD k = true ↔ k = 2 ∨ k = 3
    by_cases h : k < 12
    · interval_cases k <;> decide
    · rw [BitVec.getLsbD_of_ge _ _ (by omega)]
      simp
      omega

end

section
/-! SUPPORT. Restarts as one update (O54, O55), a guarded write at admission (O22), the end of an access (O30). -/

namespace Sys2Proof.Machine

variable {s t : State}

/-! Restarts. -/

/-- A restart begins with step 1 on the state that its event leaves: RST# as it is then, the part not running (R160, R161). -/
theorem restart_begins {c : Instr} {rst : ResetLine} (h : RestartBegins s c rst) :
    ∃ settle force, exec c s = .next (beginRestart { s with settle := settle, rst := rst, resetInForce := force }) ∧
      isRunning { s with resetInForce := force } = false := by
  cases h with
  | settled n supply settle due low =>
    refine ⟨.EXPIRED, s.resetInForce, ?_, isRunning_supply (by show s.supply ≠ _; rw [supply]; simp)⟩
    have isDue : (s.supply == .SETTLING && settleIsDue s.settle) = true := by
      rw [supply, settle]
      simpa [settleIsDue, settleTime] using due
    have released : resetHeld s = false := by simp [resetHeld, low]
    show execSettleTimerExpiry s = _
    rw [execSettleTimerExpiry, if_pos isDue, settleEnds, released]
    rfl
  | released asserted supply =>
    have row : exec .rstRelease s = .next (releaseReset s) := by
      show execRstRelease s = _
      rw [execRstRelease, asserted]
    rw [row]
    rcases supply with ⟨run, force⟩ | ⟨settling, expired⟩
    · refine ⟨s.settle, true, ?_, by simp [isRunning]⟩
      rw [← force, releaseReset, run]
    · refine ⟨s.settle, false, ?_, isRunning_supply (by show s.supply ≠ _; rw [settling]; simp)⟩
      rw [releaseReset, settling, expired]

/-- The part at step 5 of a restart before its controller chooses a state, with the store that the restart's write has left (R161). -/
def startedPart (s : State) (rst : ResetLine) (r : Retention) : State :=
  { warmStart s rst with
    retention := r
    ctl := { state := .OFF, faulted := false, pendingCommit := false, autoTimer := none, stallOrigin := none, cause := none } }

/-- Step 5 of a restart finds every block as step 1 left it (R161). -/
theorem endRestart_eq (f : Retention → Retention) (s : State) (settle : SettleTimer) (rst : ResetLine) (force : Bool) :
    endRestart (store f (endWrite (beginRestart { s with settle := settle, rst := rst, resetInForce := force }))) =
      chooseFirstState (startedPart s rst (f s.retention)) := rfl

/-- With no event enabled a cause sets its flag and ALERT# stays released (R144, R151). -/
theorem setEvent_silent (e : Event) (h : s.events.enables = 0) : setEvent e s =
    { s with events := { flags := s.events.flags ||| eventMask e, enables := 0, alert := .RELEASED } } := by
  have silent : alertDrive (isRunning s) (s.events.flags ||| eventMask e) 0 = .RELEASED := by simp [alertDrive]
  rw [setEvent_eq, h, silent]

/-- With the header EMPTY the part starts in OPEN with RESTARTED set (R48). -/
theorem chooseFirstState_empty (s : State) (rst : ResetLine) {r : Retention} (empty : r.header.state = .EMPTY) :
    chooseFirstState (startedPart s rst r) =
      { startedPart s rst r with ctl := State.reset.ctl, events := { flags := 0b100, enables := 0, alert := .RELEASED } } := by
  have chosen : chooseFirstState (startedPart s rst r) = enterOpen (setEvent .RESTARTED (startedPart s rst r)) := if_pos empty
  have restarted : (0 : BitVec 12) ||| eventMask .RESTARTED = 0b100 := by decide
  rw [chosen, setEvent_silent .RESTARTED rfl, ← restarted]
  rfl

/-- With no request, no capture, an empty queue and the engine not waiting a free port has nothing to decide (R97). -/
theorem atRest_of_idle (grant : s.arbiter.grant = none) (host : s.host = none) (capture : s.capture = none) (queue : s.queue = [])
    (restore : s.restore.state = .IDLE) : PortAtRest s :=
  .inr ⟨grant, by simp [chooseHolder, headWaits, captureWaits, hostReadWaits, host, capture, queue, restore]⟩

/-! A guarded write at admission. -/

/-- A request at the idle host port of a running part is evaluated at once (R72, R77). -/
theorem exec_hostRequest (run : isRunning s = true) (idle : s.host = none) (op : HostOp) (addr : Addr) (size : Size) (tag : Tag) :
    exec (.hostRequest op addr size tag) s = .next (arbitrate (arriveHost op addr size tag s)) := by
  have powered : s.supply ≠ .BACKUP := by
    intro h
    simp [isRunning, h] at run
  show execHostRequest op addr size tag s = _
  rw [execHostRequest, if_neg powered, hostRequest, if_neg (by rw [run]; simp), idle]
  rfl

/-- Checks 1 to 5 let the write pass, and check 6 asks the journal about a guarded one (R78 to R85). -/
theorem evaluate_guarded {addr : Addr} {size : Size} {i : RegionNo} (h : WritePasses s addr size (some i))
    (guarded : (s.active.get i).kind = .GUARDED) (job : HostJob) (data : Lanes) (op : job.op = .WRITE data) (ha : job.addr = addr)
    (hs : job.size = size) : evaluate { s with host := some job } job = .GUARD i := by
  have clear := (h.check4 i rfl).2
  have passes : aligned job.addr job.size = true := by simp [aligned, ha, hs, h.aligned]
  have lookup : governingRegion { s with host := some job } (lineOf job.addr) = some i := by
    rw [ha]
    exact h.lookup
  have room : ¬ 8 ≤ s.queue.length := by have := h.room; omega
  unfold evaluate
  rw [show ({ s with host := some job } : State).ctl.state = .OPEN from h.state]
  simp [passes, lookup, op, opKind, evaluateLookedUp, isHeldAt, guarded, clear, h.state, room]

/-- A guarded write that checks 1 to 5 let pass meets the guarded-write decision (R16, R85). -/
theorem exec_guardedWrite {addr : Addr} {size : Size} {i : RegionNo} (h : WritePasses s addr size (some i))
    (guarded : (s.active.get i).kind = .GUARDED) (data : Lanes) (tag : Tag) (job : HostJob)
    (hj : job = { op := .WRITE data, addr := addr, size := size, tag := tag, stage := .HELD (holdLimit s.cfg.holdCode), region := none }) :
    exec (.hostRequest (.WRITE data) addr size tag) s = .next (arbitrate (guardHost job i { s with host := some job })) := by
  rw [exec_hostRequest h.running h.idle]
  have verdict := evaluate_guarded h guarded job data (by rw [hj]) (by rw [hj]) (by rw [hj])
  have evaluated : arriveHost (.WRITE data) addr size tag s =
      applyVerdict job (holdLimit s.cfg.holdCode) { s with host := some job } (evaluate { s with host := some job } job) := by
    rw [hj]
    rfl
  rw [evaluated, verdict]
  rfl

/-- A line in the index goes on (R16, R85). -/
theorem guardHost_found {job : HostJob} {k : SlotNo} (region : RegionNo) (h : indexLookup s (lineOf job.addr) = some k) :
    guardHost job region s = postWrite job.addr job.size (opData job.addr job.size job.op) .GUARDED (some region) s := by
  rw [guardHost, guardedWriteDecision, h]

/-- A new line with every slot taken is refused (R16). -/
theorem guardHost_full {job : HostJob} (region : RegionNo) (h : indexLookup s (lineOf job.addr) = none)
    (full : 256 ≤ s.retention.header.count) : guardHost job region s = refuseHost .FULL (some region) s := by
  rw [guardHost, guardedWriteDecision, h]
  simp only [if_neg (Nat.not_lt.2 full)]

/-- A new line with a slot left is captured (R16, R18). -/
theorem guardHost_captures {job : HostJob} (region : RegionNo) (h : indexLookup s (lineOf job.addr) = none)
    (room : s.retention.header.count < 256) : guardHost job region s = startCapture job region s := by
  rw [guardHost, guardedWriteDecision, h]
  simp only [if_pos room]

/-! The end of an access. -/

/-- The end of an access hands its result to the grant holder, with the port as the end leaves it (R75). -/
theorem exec_accessEnds {c : Instr} {a : Access} {r : PortResult} {port : MemoryPort} {h : Holder} (powered : s.supply ≠ .BACKUP)
    (ends : AccessEnds s c a r port) (grant : s.arbiter.grant = some h) :
    exec c s = .next (arbitrate (holderResult h r { s with port := port })) := by
  have result : ∀ owed, endAccess r { s with port := { s.port with owed := owed } } =
      holderResult h r { s with port := { s.port with inFlight := none, timer := 0, owed := owed } } := by
    intro owed
    unfold endAccess
    rw [show ({ s with port := { s.port with owed := owed } } : State).arbiter.grant = some h from grant]
  have response : ∀ (tag : Tag) (answer : MemoryAnswer), exec (.memoryResponse tag answer) s = .next (takeResponse tag answer s) := by
    intro tag answer
    show execMemoryResponse tag answer s = _
    rw [execMemoryResponse, if_neg powered]
  cases ends with
  | ok a data inFlight =>
    rw [response, takeResponse, inFlight]
    simp only [Option.any_some, beq_self_eq_true, if_true]
    exact congrArg (fun u => Host.Outcome.next (arbitrate u)) (result s.port.owed)
  | err a inFlight =>
    rw [response, takeResponse, inFlight]
    simp only [Option.any_some, beq_self_eq_true, if_true]
    exact congrArg (fun u => Host.Outcome.next (arbitrate u)) (result s.port.owed)
  | limit a inFlight late =>
    show execMemoryResponseLimit s = _
    rw [execMemoryResponseLimit, takeResponseLimit, inFlight]
    simp only [if_neg (by simpa [responseLimit] using late : ¬ s.port.timer < responseLimit)]
    exact congrArg (fun u => Host.Outcome.next (arbitrate u)) (result _)

end Sys2Proof.Machine

open Sys2Proof Sys2Proof.Machine

/-- Settles O54: step 1 leaves every block as a restart gives it, so the initialisation's end finds the part of State.reset. -/
theorem coldRestart : Obligations.ColdRestart := by
  intro s c rst begins latch
  obtain ⟨settle, force, row, stopped⟩ := restart_begins begins
  refine ⟨_, row, ?_, rfl, stopped, ?_⟩
  · show [if s.retention.latch then RetentionWrite.BOOT_COUNT else .INITIALISATION] = _
    rw [latch]
    rfl
  · have head : (beginRestart { s with settle := settle, rst := rst, resetInForce := force }).writes.head? = some .INITIALISATION := by
      show [if s.retention.latch then RetentionWrite.BOOT_COUNT else .INITIALISATION].head? = _
      rw [latch]
      rfl
    show Host.Outcome.next (whenWriteEnds .INITIALISATION _ _) = _
    rw [whenWriteEnds_head head]
    show Host.Outcome.next (arbitrate (setEvent .RETENTION_LOST (endRestart (store initialisationWrite (endWrite _))))) = _
    rw [endRestart_eq, chooseFirstState_empty s rst rfl, setEvent_silent .RETENTION_LOST rfl,
      arbitrate_rest (atRest_of_idle rfl rfl rfl rfl rfl)]
    have flags : (0b100 : BitVec 12) ||| eventMask .RETENTION_LOST = 0b000000001100 := by decide
    exact congrArg (fun f => Host.Outcome.next { startedPart s rst initialStore with
      ctl := State.reset.ctl, events := { flags := f, enables := 0, alert := .RELEASED } }) flags

/-- Settles O55: step 1 as in a cold restart, then the controller's choice by the header. -/
theorem warmRestart : Obligations.WarmRestart := by
  intro s c rst begins latch
  obtain ⟨settle, force, row, stopped⟩ := restart_begins begins
  have writes : (beginRestart { s with settle := settle, rst := rst, resetInForce := force }).writes = [.BOOT_COUNT] := by
    show [if s.retention.latch then RetentionWrite.BOOT_COUNT else .INITIALISATION] = _
    rw [latch]
    rfl
  have ends : exec .bootCountWriteEnd (beginRestart { s with settle := settle, rst := rst, resetInForce := force }) =
      .next (arbitrate (chooseFirstState (startedPart s rst (bootCountWrite s.retention)))) := by
    show Host.Outcome.next (whenWriteEnds .BOOT_COUNT _ _) = _
    rw [whenWriteEnds_head (by rw [writes]; rfl)]
    rfl
  have header : (startedPart s rst (bootCountWrite s.retention)).retention.header.state = s.retention.header.state := rfl
  refine ⟨_, row, writes, rfl, stopped, fun h => ?_, fun h => ?_, fun h => ?_, fun h => ?_⟩
  · rw [ends, chooseFirstState_empty s rst (r := bootCountWrite s.retention) h, arbitrate_rest (atRest_of_idle rfl rfl rfl rfl rfl)]
    rfl
  all_goals
    rw [ends, chooseFirstState, if_neg (by rw [header, h]; simp), startRecovery, header, h]
  · exact congrArg Host.Outcome.next (arbitrate_rest (atRest_of_idle rfl rfl rfl rfl rfl))
  · exact congrArg Host.Outcome.next (arbitrate_rest (atRest_of_idle rfl rfl rfl rfl rfl))
  · rfl

/-- Settles O22: the write reaches the decision of R16, whose three answers are the three clauses. -/
theorem guardedWriteDecision : Obligations.GuardedWriteDecision := by
  intro s data addr size tag i passes guarded
  obtain ⟨job, hj⟩ : ∃ job : HostJob, job =
      { op := .WRITE data, addr := addr, size := size, tag := tag, stage := .HELD (holdLimit s.cfg.holdCode), region := none } := ⟨_, rfl⟩
  obtain ⟨arrived, ha⟩ : ∃ arrived : State, arrived = { s with host := some job } := ⟨_, rfl⟩
  have host : arrived.host = some job := by rw [ha]
  have lookup : indexLookup arrived (lineOf job.addr) = indexLookup s (lineOf addr) := by rw [ha, hj]; rfl
  rw [exec_guardedWrite passes guarded data tag job hj, ← ha]
  refine ⟨fun found => ?_, fun missing full => ?_, fun missing room k free => ?_⟩
  · obtain ⟨k, found⟩ := Option.isSome_iff_exists.1 found
    rw [guardHost_found i (lookup.trans found), postWrite_some _ _ _ _ _ host,
      meterCount_congr (s := s) _ _ (by rw [ha]) (by rw [ha]), ha, hj, ← passes.idle]
    rfl
  · rw [guardHost_full i (lookup.trans missing) (by rw [ha]; exact full), refuseHost_some _ _ host, ha, hj, ← passes.idle]
    rfl
  · rw [guardHost_captures i (lookup.trans missing) (by rw [ha]; exact room), ha, hj, startCapture]
    simp only [free]
    rfl

/-- Settles O30: the result goes to the capture engine, by its state (R18, R19, R20). -/
theorem captureReadEnds : Obligations.CaptureReadEnds := by
  intro s c a r port job powered ends grant hj
  have row := exec_accessEnds powered ends grant
  have result : holderResult .CAPTURE r { s with port := port } = captureResult r { s with port := port } := rfl
  rw [row, result, captureResult, show ({ s with port := port } : State).capture = some job from hj]
  dsimp only
  refine ⟨fun data st ok more => ?_, fun data st ok last => ?_, fun cause st failed => ?_, fun st waits => ?_, fun st done => ?_⟩
  · rw [st, ok]
    exact congrArg (fun u => Host.Outcome.next (arbitrate u)) (if_neg (by omega))
  · rw [st, ok]
    exact congrArg (fun u => Host.Outcome.next (arbitrate u)) (if_pos (by omega))
  · rw [st, failed]
    rfl
  · rw [st]
    exact congrArg (fun u => Host.Outcome.next (arbitrate u)) (if_pos (List.contains_iff_mem.2 waits))
  · rw [st]
    exact congrArg (fun u => Host.Outcome.next (arbitrate u)) (if_neg (fun waits => done (List.contains_iff_mem.1 waits)))

end

section
/-! SUPPORT. The take point of a link command, and the abort order (O49). -/

namespace Sys2Proof.Machine

variable {s t : State}

/-- A frame has at least its code. -/
theorem frameBytes_ne_nil (i : Instr) : frameBytes i ≠ some [] := by
  intro h
  cases i <;> cases h

/-- The take point of a command whose frame is ready acts on the state and answers on the link (R170). -/
theorem atTakePoint_ready {i : Instr} (h : FrameReady i s) (act : State → State × List Byte) :
    atTakePoint i act s = { (act s).1 with link := answeredLink i (act s).2 } := by
  obtain ⟨bytes, frame, ready⟩ := h
  cases bytes with
  | nil => exact absurd frame (frameBytes_ne_nil i)
  | cons code params =>
    unfold atTakePoint answeredLink
    rw [frame]
    exact if_pos ready

/-! The abort order. -/

/-- The drain check of a rollback, as one update of the writes asked for (R56, R57). -/
theorem rollbackDrainCheck_eq (s : State) : rollbackDrainCheck s =
    { s with writes :=
      if s.ctl.state = .ROLLBACK ∧ isDrained s = true ∧ s.retention.header.state ≠ .UNWINDING ∧ s.writes = [] then [.MARK] else s.writes } := by
  unfold rollbackDrainCheck
  split
  · next h => simp [askWrite, h.2.2.2]
  · rfl

/-- A capture in flight keeps a rollback from its drain (R56). -/
theorem rollbackDrainCheck_capture (h : s.capture.isSome = true) : rollbackDrainCheck s = s := by
  cases c : s.capture with
  | none => rw [c] at h; cases h
  | some job => simp [rollbackDrainCheck, isDrained, c]

/-- The abandon order to an engine that is IDLE (R20). -/
theorem abandonCapture_idle (h : s.capture = none) : abandonCapture s = s := by rw [abandonCapture, h]

/-- The abandon order to a capture in flight, as one update (R20). -/
theorem abandonCapture_some {job : CaptureJob} (h : s.capture = some job) : abandonCapture s =
    { s with
      capture := some { job with stage :=
        if job.stage = .READING ∧ s.arbiter.grant ≠ some .CAPTURE then .READING else .ABANDONING }
      writes := if job.stage = .ABANDONING ∨ job.stage = .READING ∧ s.arbiter.grant ≠ some .CAPTURE then s.writes
        else s.writes ++ [.RELEASE] } := by
  have same : ∀ st, job.stage = st → ({ job with stage := st } : CaptureJob) = job := by rintro _ rfl; rfl
  unfold abandonCapture
  rw [h]
  dsimp only
  split
  · next st => simp [st, askWrite]
  · next st => simp [st, askWrite]
  · next st =>
    by_cases grant : s.arbiter.grant = some .CAPTURE
    · simp [st, grant, askWrite]
    · simp [st, grant, same _ st, ← h]
  · next st => simp [st, same _ st, ← h]

end Sys2Proof.Machine

open Sys2Proof Sys2Proof.Machine

/-- Settles O49: the abandon order and the drain check, each one update, after the request has been evaluated again. -/
theorem abortOrdersARollback : Obligations.AbortOrdersARollback := by
  intro s ready
  have row : exec .abort s = .next { (actAbort s).1 with link := answeredLink .abort (actAbort s).2 } :=
    congrArg Host.Outcome.next (atTakePoint_ready ready actAbort)
  refine ⟨fun other => ?_, ?_⟩
  · rw [row, actAbort, if_neg other]
    rfl
  · rintro u hu ho
    have act : actAbort s = (rollbackDrainCheck (abandonCapture u), answerOf .DONE []) := by
      rw [actAbort, if_pos ho, hu]
      rfl
    have answered : HostAnswered _ u := hu ▸ reevaluate_closed (by simp)
    have view := answered.view
    have state : u.ctl.state = .ROLLBACK := view.state
    rw [row, act]
    refine ⟨fun idle => ?_, fun job c => ?_⟩
    · have drained : isDrained u = true ↔ s.queue = [] := by
        rw [isDrained, view.queue, view.capture]
        simp [idle]
      have asked : (u.ctl.state = .ROLLBACK ∧ isDrained u = true ∧ u.retention.header.state ≠ .UNWINDING ∧ u.writes = []) ↔
          (s.queue = [] ∧ s.writes = [] ∧ s.retention.header.state ≠ .UNWINDING) := by
        rw [drained, view.retention, view.writes]
        tauto
      rw [abandonCapture_idle (view.capture.trans idle), rollbackDrainCheck_eq, if_congr asked rfl rfl,
        show u.writes = s.writes from view.writes]
      rfl
    · have captured := abandonCapture_some (s := u) (view.capture.trans c)
      rw [captured, rollbackDrainCheck_capture rfl, show u.arbiter = s.arbiter from view.arbiter, show u.writes = s.writes from view.writes]
      rfl

end

section
/-! SUPPORT. The bytes of the fields that the link sends, as numbers (section 0.6.5), and the answers of the reading commands (O56). -/

namespace Sys2Proof.Machine

variable {s : State}

/-! Fields as bytes. -/

theorem bytes16_toNat (x : BitVec 16) : (bytes16 x).map (·.toNat) = be2 x.toNat := by
  simp [bytes16, be2, Nat.shiftRight_eq_div_pow]

theorem bytes24_toNat (x : BitVec 24) : (bytes24 x).map (·.toNat) = be3 x.toNat := by
  simp [bytes24, be3, Nat.shiftRight_eq_div_pow]

theorem bytes32_toNat (x : BitVec 32) : (bytes32 x).map (·.toNat) = be4 x.toNat := by
  simp [bytes32, be4, Nat.shiftRight_eq_div_pow]

/-- Two bytes send a number modulo 2^16. -/
theorem be2_mod (n : Nat) : be2 (n % 2 ^ 16) = be2 n := by
  have high : n % 2 ^ 16 / 256 % 256 = n / 256 % 256 := by omega
  have low : n % 2 ^ 16 % 256 = n % 256 := by omega
  rw [be2, high, low, be2]

/-- Three bytes send a number modulo 2^24. -/
theorem be3_mod (n : Nat) : be3 (n % 2 ^ 24) = be3 n := by
  have high : n % 2 ^ 24 / 65536 % 256 = n / 65536 % 256 := by omega
  have mid : n % 2 ^ 24 / 256 % 256 = n / 256 % 256 := by omega
  have low : n % 2 ^ 24 % 256 = n % 256 := by omega
  rw [be3, high, mid, low, be3]

/-- A line's number fits the three bytes it is sent in (R186). -/
theorem line_toNat (x : Line) : (x.setWidth 24).toNat = x.toNat := by
  rw [BitVec.toNat_setWidth, Nat.mod_eq_of_lt (Nat.lt_trans x.isLt (by decide))]

theorem flagByte_toNat (b : Bool) : (flagByte b).toNat = flag1 b := by cases b <;> rfl

/-- The three marks of READ_STATUS in one byte (section 11.4). -/
theorem statusFlags_toNat (pending faulted capture : Bool) :
    (flagByte pending ||| flagByte faulted <<< 1 ||| flagByte capture <<< 2).toNat =
      flag1 pending + 2 * flag1 faulted + 4 * flag1 capture := by
  revert pending faulted capture
  decide

theorem statusBytes_toNat (s : State) : (statusBytes s).map (·.toNat) =
    [(epochStateCode s.ctl.state).toNat, (headerStateCode s.retention.header.state).toNat] ++ be4 s.retention.header.epoch.toNat
      ++ be2 s.retention.header.count
      ++ [s.queue.length % 256, flag1 s.ctl.pendingCommit + 2 * flag1 s.ctl.faulted + 4 * flag1 s.capture.isSome]
      ++ be2 s.retention.header.boot.toNat ++ be4 s.uptime.ms.toNat ++ [(unwindCauseCode s.retention.header.cause).toNat] := by
  simp only [statusBytes, List.map_append, List.map_cons, List.map_nil, bytes32_toNat, bytes16_toNat, statusFlags_toNat, BitVec.toNat_ofNat,
    be2_mod]

theorem regionBytes_toNat (r : Region) : (regionBytes r).map (·.toNat) =
    [(regionKindCode r.kind).toNat] ++ be3 r.base.toNat ++ be3 r.limit.toNat ++ [flag1 r.metered] ++ be3 r.writeLimit
      ++ [r.qualify % 256, (tripActionCode r.action).toNat] := by
  simp only [regionBytes, List.map_append, List.map_cons, List.map_nil, bytes24_toNat, line_toNat, flagByte_toNat, BitVec.toNat_ofNat,
    be3_mod]

theorem meterBytes_toNat (m : Meter) : (meterBytes m).map (·.toNat) =
    [(tripStateCode m.trip).toNat, m.strikes % 256] ++ be3 m.count ++ be3 m.latch := by
  simp only [meterBytes, List.map_append, List.map_cons, List.map_nil, bytes24_toNat, BitVec.toNat_ofNat, be3_mod]

theorem faultBytes_toNat (f : FaultRecord) : (faultBytes (some f)).map (·.toNat) =
    [1, (faultSourceCode f.source).toNat, (causeCode f.cause).toNat] ++ be3 f.addr.toNat ++ be4 f.epoch.toNat ++ be4 f.uptime.toNat
      ++ [f.repeats % 256] := by
  simp only [faultBytes, List.map_append, List.map_cons, List.map_nil, bytes24_toNat, bytes32_toNat, BitVec.toNat_ofNat]
  rfl

theorem outcomeBytes_toNat (o : OutcomeRecord) : (outcomeBytes o).map (·.toNat) =
    be4 o.epoch.toNat ++ [(outcomeKindCode o.kind).toNat] ++ be2 o.entries ++ be2 o.boot.toNat ++ be4 o.uptime.toNat := by
  simp only [outcomeBytes, List.map_append, List.map_cons, List.map_nil, bytes16_toNat, bytes32_toNat, BitVec.toNat_ofNat, be2_mod]

/-- The six bytes before the image of a READ_ENTRY answer (section 11.4). -/
theorem entryBytes_eq (slot : Slot) : ∃ head : List Byte, entryBytes slot = head ++ imageBytes slot ∧ head.length = 6 ∧
    head.map (·.toNat) = [(slotStateCode slot.state).toNat] ++ be3 slot.line.toNat ++ [slot.region.val, slot.seq.toNat] := by
  have region : slot.region.val % 2 ^ 8 = slot.region.val := Nat.mod_eq_of_lt (Nat.lt_trans slot.region.isLt (by decide))
  refine ⟨_, rfl, rfl, ?_⟩
  simp only [List.map_append, List.map_cons, List.map_nil, bytes24_toNat, line_toNat, BitVec.toNat_ofNat, region]

/-- A word of an image on the link (section 11.4, log 7). -/
theorem wordBytes_eq (w : Lanes) : wordBytes w =
    if Config.lane0MostSignificant then [w.lane0, w.lane1, w.lane2, w.lane3] else [w.lane3, w.lane2, w.lane1, w.lane0] := rfl

/-! Answers. -/

/-- The index check of a byte that names a region (R186). -/
theorem regionIndex_of {b : Byte} {i : RegionNo} (h : b.toNat = i.val) : regionIndex b = some i := by
  rw [regionIndex, dif_pos (h ▸ i.isLt)]
  exact congrArg some (Fin.ext h)

theorem regionIndex_none {b : Byte} (h : 16 ≤ b.toNat) : regionIndex b = none := dif_neg (Nat.not_lt.2 h)

/-- READ_REGION with a region or a selection out of range (R113, R186). -/
theorem actReadRegion_invalid {index selection : Byte} (h : 16 ≤ index.toNat ∨ 2 ≤ selection.toNat) :
    actReadRegion index selection s = (s, answerOf .INVALID []) := by
  unfold actReadRegion
  split
  · next i hi hs =>
    rcases h with h | h
    · rw [regionIndex_none h] at hi
      cases hi
    · omega
  · next i hi hs =>
    rcases h with h | h
    · rw [regionIndex_none h] at hi
      cases hi
    · omega
  · rfl

/-- A command whose take point leaves the state alone changes the link alone (R170). -/
theorem exec_reads {i : Instr} {act : State → State × List Byte} {answer : List Byte} (row : exec i s = .next (atTakePoint i act s))
    (ready : FrameReady i s) (reads : act s = (s, answer)) : exec i s = .next { s with link := answeredLink i answer } := by
  rw [row, atTakePoint_ready ready, reads]

end Sys2Proof.Machine

open Sys2Proof Sys2Proof.Machine

/-- Settles O56: each command's answer at its take point, then the fields of section 11.4 and the codes of section 11.3. -/
theorem readingCommands : Obligations.ReadingCommands := by
  refine ⟨fun s => ⟨fun ready => exec_reads rfl ready rfl, fun ready => exec_reads rfl ready rfl, fun index selection ready => ⟨fun out => ?_,
      fun i hi hs => ?_, fun i hi hs => ?_⟩, fun slot ready => exec_reads rfl ready rfl, fun ready => exec_reads rfl ready rfl,
      fun ready => exec_reads rfl ready rfl, fun code unknown ready => ?_⟩,
    statusBytes_toNat, regionBytes_toNat, meterBytes_toNat, rfl, faultBytes_toNat, outcomeBytes_toNat, fun slot => ?_, fun slot unfilled => ?_,
    fun slot image full present => ?_, bytes16_toNat, rfl, rfl, rfl, rfl, rfl, rfl, rfl, rfl, rfl, rfl⟩
  · exact exec_reads rfl ready (actReadRegion_invalid out)
  · subst hs
    exact exec_reads rfl ready (by rw [actReadRegion, regionIndex_of hi]; rfl)
  · subst hs
    exact exec_reads rfl ready (by rw [actReadRegion, regionIndex_of hi]; rfl)
  · refine exec_reads (act := actUnknownCode) ?_ ready rfl
    show execUnknownCode code s = _
    rw [execUnknownCode, unknown]
    rfl
  · obtain ⟨head, e, six, fields⟩ := entryBytes_eq slot
    rw [e, ← six, List.take_left, fields]
  · obtain ⟨head, e, six, -⟩ := entryBytes_eq slot
    rw [e, imageBytes, if_neg unfilled, List.append_nil, six]
  · obtain ⟨head, e, six, -⟩ := entryBytes_eq slot
    rw [e, ← six, List.drop_left, imageBytes, if_pos full, present]
    rfl

end

section
/-! SUPPORT. The law of running and stopping over every step (O7). -/

namespace Sys2Proof.Machine

variable {s t : State}

/-! The take point of a setting. -/

/-- What the take point of a setting can write: the staged table, the meter records, the configuration, the auto-commit timer, the report
unit and the event unit, whose ALERT# keeps its law (R34, R107, R108, R124, R135, R140, R147, R148, R179). -/
structure SettingTaken (s t : State) : Prop where
  same : t = { s with
    staged := t.staged, meters := t.meters, cfg := t.cfg, ctl := { s.ctl with autoTimer := t.ctl.autoTimer }, report := t.report
    events := t.events }
  alert : AlertLaw s → AlertLaw t

theorem SettingTaken.refl (s : State) : SettingTaken s s := ⟨rfl, id⟩

theorem SettingTaken.supply (h : SettingTaken s t) : t.supply = s.supply := by rw [h.same]
theorem SettingTaken.force (h : SettingTaken s t) : t.resetInForce = s.resetInForce := by rw [h.same]
theorem SettingTaken.rst (h : SettingTaken s t) : t.rst = s.rst := by rw [h.same]
theorem SettingTaken.state (h : SettingTaken s t) : t.ctl.state = s.ctl.state := by rw [h.same]
theorem SettingTaken.writes (h : SettingTaken s t) : t.writes = s.writes := by rw [h.same]
theorem SettingTaken.running (h : SettingTaken s t) : isRunning t = isRunning s := by rw [isRunning, h.supply, h.force, isRunning]

/-- A setting writes nothing else. -/
theorem settingTaken {i : Instr} (h : isSetting i = true) (s : State) : SettingTaken s (linkAct i s).1 := by
  cases i <;> first | exact absurd h Bool.noConfusion | skip
  case stageRegion index kind base limit metered writeLimit qualify action =>
    show SettingTaken s (actStageRegion index kind base limit metered writeLimit qualify action s).1
    unfold actStageRegion
    split <;> exact ⟨rfl, id⟩
  case clearStaged => exact ⟨rfl, id⟩
  case clearTrip index =>
    show SettingTaken s (actClearTrip index s).1
    unfold actClearTrip
    split
    · exact .refl s
    · split <;> exact ⟨rfl, id⟩
  case setConfig window hold level interval =>
    show SettingTaken s (actSetConfig window hold level interval s).1
    unfold actSetConfig
    split <;> exact ⟨rfl, id⟩
  case setEnables enables =>
    show SettingTaken s (actSetEnables enables s).1
    unfold actSetEnables
    split
    · exact ⟨rfl, fun _ => alertLaw_withEvents _ _ s⟩
    · exact .refl s
  case takeEvents => exact ⟨rfl, fun _ => alertLaw_withEvents _ _ s⟩
  case takeRefusals n =>
    show SettingTaken s (actTakeRefusals n s).1
    unfold actTakeRefusals
    split <;> exact ⟨rfl, id⟩
  case clearFault => exact ⟨rfl, id⟩

/-! A running part. -/

/-- The law of a part that runs: the controller is not OFF, no restart write is asked for, RST# is not asserted, and ALERT# follows its law
(R25, R151, R159, R161). -/
structure Runs (s : State) : Prop where
  running : isRunning s = true
  on : s.ctl.state ≠ .OFF
  writes : ∀ w ∈ s.writes, isRestartWrite w = false
  released : s.rst ≠ .ASSERTED
  alert : AlertLaw s

theorem resetInForce_of_running (run : isRunning s = true) : s.resetInForce = false := by
  simpa using (Bool.and_eq_true_iff.1 run).2

theorem SupplyLaw.runs (h : SupplyLaw s) (run : isRunning s = true) : Runs s where
  running := run
  on off := by rw [h.off.1 off] at run; cases run
  writes := h.running run
  released asserted := by have force := h.asserted asserted; rw [resetInForce_of_running run] at force; cases force
  alert := h.alert

theorem Runs.supplyLaw (h : Runs s) : SupplyLaw s where
  off := ⟨fun off => absurd off h.on, fun stopped => by rw [h.running] at stopped; cases stopped⟩
  stopped stopped := by rw [h.running] at stopped; cases stopped
  running _ := h.writes
  asserted asserted := absurd asserted h.released
  alert := h.alert

/-- Work inside the running part keeps its law. -/
theorem Runs.internal (h : Runs s) (k : Internal s t) : Runs t where
  running := by rw [isRunning, k.supply, k.force]; exact h.running
  on := k.state h.on
  writes := by
    obtain ⟨ws, e, plain⟩ := k.writes
    rw [e]
    exact fun w hw => (List.mem_append.1 hw).elim (h.writes w) (plain w)
  released := by rw [k.rst]; exact h.released
  alert := k.alert h.alert

/-- The plain update with which a command begins keeps the law of a running part. -/
theorem Runs.base {c : Instr} (h : Runs s) (k : Base s c t) (hc : isSupplyRow c = false) : Runs t := by
  have tail : ∀ w ∈ s.writes.tail, isRestartWrite w = false := fun w hw => h.writes w (List.mem_of_mem_tail hw)
  cases k with
  | same => exact h
  | answered _ _ _ _ _ stopped => rw [h.running] at stopped; cases stopped
  | arrived => exact { h with }
  | mark => exact { h with }
  | window => exact { h with }
  | write w r ws ix head made left =>
    refine { h with writes := ?_ }
    rcases left with rfl | rfl
    · exact tail
    · exact nofun
  | dropped => exact { h with writes := tail }
  | sealing => exact { h with writes := tail }
  | restarted w r head made restart =>
    have plain := h.writes w (List.mem_of_mem_head? head)
    rcases restart with rfl | rfl <;> cases plain
  | supply _ _ _ row => rw [row] at hc; cases hc
  | link => exact { h with }
  | setting _ i l hi =>
    have k := settingTaken hi s
    exact
      { running := k.running.trans h.running, on := fun off => h.on (k.state.symm.trans off)
        writes := by show ∀ w ∈ (linkAct i s).1.writes, _; rw [k.writes]; exact h.writes
        released := fun asserted => h.released (k.rst.symm.trans asserted), alert := k.alert h.alert }

/-- Every command but the rows of the supply and of RST# keeps the law of a running part. -/
theorem Runs.exec {c : Instr} (h : Runs s) (hc : isSupplyRow c = false) (e : exec c s = .next t) : Runs t := by
  obtain ⟨b, t', e', base, work⟩ := exec_shape c s
  obtain rfl : t' = t := by rw [e] at e'; cases e'; rfl
  exact (h.base base hc).internal work

/-! A stopped part. -/

/-- What the lines can move of a stopped part: the answers at the host port, the owed tags, the level of MARK and the frame that is passed
over (R32, R73, R76, R165, R168). -/
inductive LinesMoved (s : State) : State → Prop where
  | still : LinesMoved s s
  | answered (responses : List HostResponse) : LinesMoved s { s with responses := responses }
  | owed (owed : Vector Bool 16) : LinesMoved s { s with port := { s.port with owed := owed } }
  | mark (mark : MarkLine) (h : mark = .LOW ∨ mark = .HIGH) : LinesMoved s { s with mark := mark }
  | link (link : Link) (h : link.state = .IDLE ∨ link.state = .PASSED) : LinesMoved s { s with link := link }

/-- A command other than a row of the supply or of RST# and the end of a restart moves the lines of a stopped part alone. -/
theorem linesMoved_exec {c : Instr} (h : Stopped s) (stopped : isRunning s = false) (off : s.ctl.state = .OFF) (hc : isSupplyRow c = false)
    (hr : isRestartEnd c = false) (e : exec c s = .next t) : LinesMoved s t := by
  have take_point := fun i act => atTakePoint_stopped stopped i act
  have write_end : ∀ {w : RetentionWrite} (f : State → State), isRestartWrite w = false → LinesMoved s (whenWriteEnds w f s) := by
    intro w f plain
    rw [whenWriteEnds_stopped h plain]
    exact .still
  cases c <;> first | exact absurd hc Bool.noConfusion | exact absurd hr Bool.noConfusion | cases e
  case hostRequest =>
    split
    · exact .still
    · rw [hostRequest, if_pos stopped]
      exact .answered _
  case memoryResponse =>
    split
    · exact .still
    · unfold takeResponse
      rw [h.access]
      exact .owed _
  case memoryResponseLimit =>
    rw [takeResponseLimit, h.access]
    exact .still
  case holdDeadline =>
    rw [h.host]
    exact .still
  case allocationWriteEnd => exact write_end _ rfl
  case completionWriteEnd => exact write_end _ rfl
  case releaseWriteEnd => exact write_end _ rfl
  case sealWriteEnd => exact write_end _ rfl
  case clearWriteEnd => exact write_end _ rfl
  case unwindingMarkEnd => exact write_end _ rfl
  case retireWriteEnd => exact write_end _ rfl
  case finishWriteEnd => exact write_end _ rfl
  case discardWriteEnd => exact write_end _ rfl
  case markRequest =>
    rw [if_neg (by rcases h.mark with e | e <;> rw [e] <;> simp)]
    exact .still
  case autoCommitExpiry =>
    rw [h.timer]
    exact .still
  case windowBoundary =>
    rw [stopped]
    exact .still
  case markRisingEdge =>
    rw [if_pos off]
    split
    · exact .mark _ (.inr rfl)
    · exact .still
  case markFallingEdge => exact .mark _ (.inl rfl)
  case mcsFall =>
    rw [stopped]
    split
    · exact .link _ (.inr rfl)
    · exact .still
  case mcsRise =>
    rcases h.link with e | e <;> rw [e]
    · exact .still
    · exact .link _ (.inl rfl)
  case mckRisingEdge mdi => rcases h.link with e | e <;> rw [e] <;> exact .still
  case unknownCode code =>
    rw [take_point, ite_self]
    exact .still
  all_goals
    rw [take_point]
    exact .still

/-- The lines of a stopped part keep the law. -/
theorem SupplyLaw.lines (h : SupplyLaw s) (stopped : isRunning s = false) (k : LinesMoved s t) : SupplyLaw t := by
  have rest := h.stopped stopped
  have runs : ∀ {u : State}, isRunning u = isRunning s → isRunning u = true → ∀ w ∈ u.writes, isRestartWrite w = false := by
    intro u same run
    rw [same, stopped] at run
    cases run
  cases k with
  | still => exact h
  | answered responses => exact { h with stopped := fun _ => { rest with }, running := runs rfl }
  | owed owed => exact { h with stopped := fun _ => { rest with }, running := runs rfl }
  | mark mark level => exact { h with stopped := fun _ => { rest with mark := level }, running := runs rfl }
  | link link state => exact { h with stopped := fun _ => { rest with link := state }, running := runs rfl }

/-! Stops and restarts. -/

/-- A part that does not run and is stopped, its ALERT# released, meets the law. -/
theorem supplyLaw_stopped (stopped : isRunning s = false) (off : s.ctl.state = .OFF) (rest : Stopped s)
    (asserted : s.rst = .ASSERTED → s.resetInForce = true) (alert : s.events.alert = .RELEASED) : SupplyLaw s where
  off := ⟨fun _ => stopped, fun _ => off⟩
  stopped _ := rest
  running run := by rw [stopped] at run; cases run
  asserted := asserted
  alert := by
    rw [AlertLaw, alert, stopped]
    simp

theorem SupplyLaw.released (h : SupplyLaw s) (stopped : isRunning s = false) : s.events.alert = .RELEASED := by
  cases drive : s.events.alert with
  | RELEASED => rfl
  | LOW => have run := (h.alert.1 drive).1; rw [stopped] at run; cases run

theorem dropReset_asserted {r : ResetLine} : dropReset r = .ASSERTED ↔ r = .ASSERTED := by cases r <;> simp [dropReset]

theorem dropMark_level (m : MarkLine) : dropMark m = .LOW ∨ dropMark m = .HIGH := by cases m <;> simp [dropMark]

/-- After a stop no frame is taken (R165, R168). -/
theorem discardFrame_state (l : Link) : (discardFrame l).state = .IDLE ∨ (discardFrame l).state = .PASSED := by
  unfold discardFrame
  split
  · next idle => exact .inl idle
  · exact .inr rfl

/-- A stop leaves a stopped part (R157, R159). -/
theorem supplyLaw_stopPart (n : Nat) (stopped : isRunning s = false) (asserted : s.rst = .ASSERTED → s.resetInForce = true) :
    SupplyLaw (stopPart n s) := by
  have level := dropMark_level s.mark
  rw [dropMark_eq] at level
  rw [stopPart_eq n stopped]
  refine supplyLaw_stopped stopped rfl ?_ ?_ rfl
  · exact
      { host := rfl, capture := rfl, queue := rfl, access := rfl, grant := rfl, restore := rfl, timer := rfl
        link := discardFrame_state s.link, mark := level, writes := .inl rfl }
  · intro h
    have line : dropReset s.rst = .ASSERTED := (dropReset_eq s.rst).trans h
    exact asserted (dropReset_asserted.1 line)

theorem supplyLaw_enterFailing (n : Nat) (asserted : s.rst = .ASSERTED → s.resetInForce = true) : SupplyLaw (enterFailing n s) :=
  supplyLaw_stopPart n rfl asserted

/-- A store that loses its hold is no matter of the law (R155, R156). -/
theorem SupplyLaw.loseStore (h : SupplyLaw s) (stopped : isRunning s = false) : SupplyLaw (loseStore s) :=
  supplyLaw_stopped stopped (h.off.2 stopped) { h.stopped stopped with } h.asserted (h.released stopped)

/-- The unpowered part is stopped (R158). -/
theorem supplyLaw_enterBackup (low : Bool) (asserted : s.rst = .ASSERTED → s.resetInForce = true) : SupplyLaw (enterBackup low s) := by
  have unpowered : SupplyLaw (enterBackup false s) :=
    supplyLaw_stopped rfl rfl
      { host := rfl, capture := rfl, queue := rfl, access := rfl, grant := rfl, restore := rfl, timer := rfl
        link := by
          show (if s.link.state = .IDLE then _ else _) = _ ∨ (if s.link.state = .IDLE then _ else _) = _
          split
          · exact .inl rfl
          · exact .inr rfl
        mark := dropMark_level s.mark
        writes := .inl rfl }
      (fun line => asserted (dropReset_asserted.1 line)) rfl
  cases low with
  | false => exact unpowered
  | true => exact unpowered.loseStore rfl

/-- Step 1 of a restart leaves a stopped part with the restart's write asked for (R161). -/
theorem supplyLaw_beginRestart (stopped : isRunning s = false) (rest : Stopped s) (line : s.rst ≠ .ASSERTED ∧ s.rst ≠ .LOW) :
    SupplyLaw (beginRestart s) :=
  supplyLaw_stopped stopped rfl
    { host := rfl, capture := rfl, queue := rfl, access := rfl, grant := rfl, restore := rfl, timer := rfl
      link := rest.link, mark := rest.mark
      writes := .inr ⟨⟨_, rfl, by cases s.retention.latch <;> rfl⟩, line, rfl, rfl⟩ }
    (fun asserted => absurd asserted line.1) rfl

/-- What stops and timings leave of a stopped part: it is stopped whatever the supply and the reset are, with RST# as it was or high. -/
theorem Stopped.moved (h : Stopped s) (supply : SupplyState) (settle : SettleTimer) (force : Bool) {line : ResetLine}
    (same : line = s.rst ∨ line ≠ .ASSERTED ∧ line ≠ .LOW) :
    Stopped { s with supply := supply, settle := settle, rst := line, resetInForce := force } :=
  { h with
    writes := by
      rcases h.writes with empty | ⟨asked, low, silent⟩
      · exact .inl empty
      · rcases same with rfl | high
        · exact .inr ⟨asked, low, silent⟩
        · exact .inr ⟨asked, high, silent⟩ }

theorem supplyLaw_settleEnds (h : SupplyLaw s) (settling : s.supply = .SETTLING) : SupplyLaw (settleEnds s) := by
  have stopped : isRunning s = false := isRunning_supply (by rw [settling]; simp)
  have rest := h.stopped stopped
  unfold settleEnds
  split
  · next held =>
    have low : s.rst = .ASSERTED ∨ s.rst = .LOW := by simpa [resetHeld] using held
    have unasked : s.writes = [] := by
      rcases rest.writes with empty | ⟨-, high, -⟩
      · exact empty
      · exact absurd low (not_or.2 high)
    exact supplyLaw_stopped (by simp [isRunning]) (h.off.2 stopped) { rest with writes := .inl unasked } (fun _ => rfl) (h.released stopped)
  · next free =>
    exact supplyLaw_beginRestart stopped (rest.moved s.supply .EXPIRED s.resetInForce (.inl rfl)) (by simpa [resetHeld] using free)

theorem supplyLaw_releaseReset (h : SupplyLaw s) (force : s.resetInForce = true) : SupplyLaw (releaseReset s) := by
  have stopped : isRunning s = false := by simp [isRunning, force]
  have rest := fun inForce => (h.stopped stopped).moved s.supply s.settle inForce (line := .HIGH) (.inr (by simp))
  have high : (ResetLine.HIGH ≠ .ASSERTED) ∧ (ResetLine.HIGH ≠ .LOW) := by simp
  have ended : s.supply ≠ .RUN → isRunning { s with rst := .HIGH, resetInForce := false } = false :=
    fun off => isRunning_supply (by exact off)
  unfold releaseReset
  split
  · exact supplyLaw_beginRestart (by exact stopped) (rest s.resetInForce) high
  · next settling _ => exact supplyLaw_beginRestart (ended (by rw [settling]; simp)) (rest false) high
  · next off _ => exact supplyLaw_stopped (ended off) (h.off.2 stopped) (rest false) nofun (h.released stopped)

/-- The level of RST# on a part that is not asserted keeps the law (R159). -/
theorem SupplyLaw.line (h : SupplyLaw s) {line : ResetLine} (high : line ≠ .ASSERTED ∧ line ≠ .LOW) : SupplyLaw { s with rst := line } where
  off := h.off
  stopped stopped := (h.stopped stopped).moved s.supply s.settle s.resetInForce (.inr high)
  running := h.running
  asserted asserted := absurd asserted high.1
  alert := h.alert

/-- The rows of the supply and of RST# keep the law. -/
theorem supplyLaw_supplyRow {c : Instr} (h : SupplyLaw s) (hc : isSupplyRow c = true) (e : exec c s = .next t) : SupplyLaw t := by
  cases c <;> first | exact absurd hc Bool.noConfusion | cases e
  case vddFail =>
    split
    · exact supplyLaw_enterFailing _ h.asserted
    · exact supplyLaw_enterFailing _ h.asserted
    · exact h
    · exact h
  case vddSwitchOver low =>
    have failing := fun n => supplyLaw_enterFailing (s := useFree s) n h.asserted
    split
    · exact supplyLaw_enterBackup low (failing _).asserted
    · exact supplyLaw_enterBackup low (failing _).asserted
    · exact supplyLaw_enterBackup low h.asserted
    · exact h
  case vddGood =>
    have good : s.supply ≠ .RUN → SupplyLaw { s with supply := .SETTLING, settle := .RUNNING 0 } := fun off =>
      have stopped := isRunning_supply off
      supplyLaw_stopped rfl (h.off.2 stopped) ((h.stopped stopped).moved _ _ s.resetInForce (.inl rfl)) h.asserted (h.released stopped)
    split
    · next off => exact good (by rw [off]; simp)
    · next off => exact good (by rw [off]; simp)
    · exact h
    · exact h
  case settleTimerExpiry =>
    split
    · next due => exact supplyLaw_settleEnds h (by simpa using (Bool.and_eq_true_iff.1 due).1)
    · exact h
  case vbkLow =>
    split
    · next off => exact h.loseStore (isRunning_supply (by rw [off]; simp))
    · exact h
  case firstPower => exact (supplyLaw_enterBackup false (supplyLaw_enterFailing 0 h.asserted).asserted).loseStore rfl
  case rstAssert =>
    split
    · exact supplyLaw_stopPart _ (by simp [isRunning]) (fun _ => rfl)
    · exact h
  case rstRelease =>
    split
    · exact h
    · exact h.line (by simp)
    · exact h.line (by simp)
    · exact h.line (by simp)
    · next asserted => exact supplyLaw_releaseReset h (h.asserted asserted)
  case rstFallingEdge =>
    split
    · exact h.line (by simp)
    · exact h

/-- From RECOVERY on the controller's choice of its first state is work inside the running part (R48, R163). -/
theorem internal_chooseFirstState (s : State) :
    Internal { s with ctl := { s.ctl with state := .RECOVERY } } (chooseFirstState s) := by
  have start := Internal.refl { s with ctl := { s.ctl with state := .RECOVERY } }
  unfold chooseFirstState
  split
  · exact internal_enterOpen (t := setEvent .RESTARTED { s with ctl := { s.ctl with state := .RECOVERY } }) (internal_setEvent _ start)
  · unfold startRecovery
    dsimp only
    split
    · exact internal_askWrite rfl start
    · exact internal_startUnwind start
    · exact internal_askWrite rfl start
    · exact internal_askWrite rfl start

/-- A restart's write that ends leaves a running part, with no flag set before its controller chooses a state (R143, R161). -/
theorem runs_endRestart (rest : Stopped s) (released : s.events.alert = .RELEASED) {w : RetentionWrite} (head : s.writes.head? = some w)
    (f : Retention → Retention) : Runs (endRestart (store f (endWrite s))) := by
  obtain ⟨last, high, silent⟩ : s.writes.tail = [] ∧ s.rst ≠ .ASSERTED ∧ s.events.flags = 0 := by
    rcases rest.writes with empty | ⟨⟨w', one, -⟩, line, flags, -⟩
    · rw [empty] at head
      cases head
    · exact ⟨by rw [one]; rfl, line.1, flags⟩
  refine Runs.internal ?_ (internal_chooseFirstState _)
  exact
    { running := rfl, on := nofun, writes := by show ∀ w ∈ s.writes.tail, _; rw [last]; exact nofun
      released := high
      alert := by
        show s.events.alert = .LOW ↔ _ ∧ ∃ k, s.events.flags.getLsbD k = true ∧ _
        rw [released, silent]
        simp }

/-- The end of a restart keeps the law (R2, R161). -/
theorem supplyLaw_restartEnd {c : Instr} (h : SupplyLaw s) (stopped : isRunning s = false) (hc : isRestartEnd c = true)
    (e : exec c s = .next t) : SupplyLaw t := by
  have ended : ∀ {w : RetentionWrite} (f : Retention → Retention), s.writes.head? = some w → Runs (endRestart (store f (endWrite s))) :=
    fun f head => runs_endRestart (h.stopped stopped) (h.released stopped) head f
  cases c <;> first | exact absurd hc Bool.noConfusion | cases e
  case bootCountWriteEnd =>
    unfold whenWriteEnds
    split
    · next head => exact ((ended bootCountWrite head).internal (internal_arbitrate (.refl _))).supplyLaw
    · exact h
  case initialisationWriteEnd =>
    unfold whenWriteEnds
    split
    · next head =>
      exact ((ended initialisationWrite head).internal (internal_arbitrate (internal_setEvent .RETENTION_LOST (.refl _)))).supplyLaw
    · exact h

/-! Every step. -/

/-- Every command keeps the law of running and stopping. -/
theorem supplyLaw_exec {c : Instr} (h : SupplyLaw s) (e : exec c s = .next t) : SupplyLaw t := by
  cases supply : isSupplyRow c with
  | true => exact supplyLaw_supplyRow h supply e
  | false =>
    cases run : isRunning s with
    | true => exact ((h.runs run).exec supply e).supplyLaw
    | false =>
      cases restart : isRestartEnd c with
      | true => exact supplyLaw_restartEnd h run restart e
      | false => exact h.lines run (linesMoved_exec (h.stopped run) run (h.off.2 run) supply restart e)

/-- The level of MARK that a stopped part follows does not age (R32). -/
theorem ageMark_level {m : MarkLine} (h : m = .LOW ∨ m = .HIGH) : ageMark m = .LOW ∨ ageMark m = .HIGH := by
  rcases h with rfl | rfl <;> simp [ageMark]

/-- RST# is asserted by its row alone (R159). -/
theorem ageReset_asserted {r : ResetLine} : ageReset r = .ASSERTED ↔ r = .ASSERTED := by cases r <;> simp [ageReset]

theorem ageReset_low {r : ResetLine} : ageReset r = .LOW ↔ r = .LOW := by cases r <;> simp [ageReset]

/-- One microsecond leaves RST# asserted or low exactly where it was (R158, R159). -/
theorem rst_idleStep (s : State) : ((idleStep s).rst = .ASSERTED ↔ s.rst = .ASSERTED) ∧ ((idleStep s).rst = .LOW ↔ s.rst = .LOW) := by
  have line : (idleStep s).rst = if s.supply = .BACKUP then s.rst else ageReset s.rst := rfl
  rw [line]
  split
  · exact ⟨Iff.rfl, Iff.rfl⟩
  · exact ⟨ageReset_asserted, ageReset_low⟩

/-- One microsecond leaves a stopped part stopped: none of its timers runs (R164). -/
theorem Stopped.idleStep (h : Stopped s) : Stopped (idleStep s) where
  host := by show s.host.map ageHold = none; rw [h.host]; rfl
  capture := h.capture
  queue := h.queue
  access := by show (if s.port.inFlight.isSome = true then _ else s.port).inFlight = none; rw [h.access]; exact h.access
  grant := h.grant
  restore := h.restore
  timer := by show s.ctl.autoTimer.map _ = none; rw [h.timer]; rfl
  link := h.link
  mark := ageMark_level h.mark
  writes := by
    obtain ⟨asserted, low⟩ := rst_idleStep s
    rcases h.writes with empty | ⟨asked, line, silent⟩
    · exact .inl empty
    · exact .inr ⟨asked, ⟨fun x => line.1 (asserted.1 x), fun x => line.2 (low.1 x)⟩, silent⟩

/-- One microsecond of an idle part keeps the law. -/
theorem SupplyLaw.idleStep (h : SupplyLaw s) : SupplyLaw (idleStep s) where
  off := h.off
  stopped stopped := (h.stopped stopped).idleStep
  running := h.running
  asserted x := h.asserted ((rst_idleStep s).1.1 x)
  alert := h.alert

/-- Every step keeps the law of running and stopping. -/
theorem supplyLaw_step (h : SupplyLaw s) (e : step s = .next t) : SupplyLaw t := by
  unfold step at e
  split at e
  · cases e
    exact h.idleStep
  · next c rest _ => exact supplyLaw_exec (h.withPending rest) e

end Sys2Proof.Machine

open Sys2Proof Sys2Proof.Machine

/-- Settles O7: a running part keeps the law by the shape of its commands, a stopped part by what its lines can move, and the rows of the
supply and of RST# and the end of a restart one by one. -/
theorem supplyLawKept : Obligations.SupplyLawKept := fun _ _ h e => supplyLaw_step h e

end

section
/-! SUPPORT. One microsecond of an idle part: the expiries that are due, and the orders they can be queued in (O3, O4). -/

namespace Sys2Proof.Machine

variable {s t : State}

/-! The order of the expiries of one microsecond. -/

/-- An order of a list is one of its permutations. -/
theorem orderOf_perm (n : Nat) (l : List Instr) : (orderOf n l).Perm l := by
  induction l generalizing n with
  | nil => exact .refl _
  | cons i rest ih =>
    cases rest with
    | nil => exact .refl _
    | cons j rest =>
      have place : n % ((j :: rest).length + 1) ≤ (orderOf (n / ((j :: rest).length + 1)) (j :: rest)).length := by
        rw [(ih _).length_eq]
        exact Nat.lt_succ_iff.1 (Nat.mod_lt _ (Nat.succ_pos _))
      exact (List.perm_insertIdx i _ place).trans ((ih _).cons i)

/-- The order that puts the front command of two or more at a place of an order of the rest. -/
theorem orderOf_cons {n p : Nat} {i : Instr} {rest : List Instr} (h : rest ≠ []) (place : p < rest.length + 1) :
    orderOf (n * (rest.length + 1) + p) (i :: rest) = (orderOf n rest).insertIdx p i := by
  cases rest with
  | nil => exact absurd rfl h
  | cons j rest =>
    rw [orderOf, Nat.add_comm, Nat.add_mul_div_right _ _ (Nat.succ_pos _), Nat.div_eq_of_lt place, Nat.zero_add, Nat.add_mul_mod_self_right,
      Nat.mod_eq_of_lt place]
    simp

theorem insertIdx_between (i : Instr) (front back : List Instr) : (front ++ back).insertIdx front.length i = front ++ i :: back := by
  induction front with
  | nil => rfl
  | cons j front ih => exact congrArg (j :: ·) ih

/-- Every permutation of a list is one of its orders (section 0.6.6, log 4). -/
theorem exists_orderOf {l l' : List Instr} (h : l'.Perm l) : ∃ n, orderOf n l = l' := by
  induction l generalizing l' with
  | nil => exact ⟨0, (List.perm_nil.1 h).symm⟩
  | cons i rest ih =>
    obtain ⟨front, back, rfl⟩ := List.append_of_mem (h.mem_iff.2 List.mem_cons_self)
    have others : (front ++ back).Perm rest := (List.perm_cons i).1 (List.perm_middle.symm.trans h)
    by_cases one : rest = []
    · subst one
      obtain ⟨rfl, rfl⟩ := List.append_eq_nil_iff.1 (List.perm_nil.1 others)
      exact ⟨0, rfl⟩
    · obtain ⟨n, order⟩ := ih others
      have place : front.length < rest.length + 1 := by
        rw [← others.length_eq, List.length_append]
        omega
      refine ⟨n * (rest.length + 1) + front.length, ?_⟩
      rw [orderOf_cons one place, order, insertIdx_between]

/-! The expiries that are due. -/

theorem mem_dueIf {c i : Instr} {b : Bool} : c ∈ dueIf b i ↔ b = true ∧ c = i := by cases b <;> simp [dueIf]

theorem dueIf_sublist (b : Bool) (i : Instr) : (dueIf b i).Sublist [i] := by cases b <;> simp [dueIf]

/-- Each expiry is due at most once. -/
theorem dueEvents_nodup (s : State) : (dueEvents s).Nodup := by
  have once : [Instr.markRequest, .rstAssert, .memoryResponseLimit, .holdDeadline, .autoCommitExpiry, .windowBoundary,
    .settleTimerExpiry].Nodup := by simp
  have one := dueIf_sublist
  exact once.sublist (((((((one _ _).append (one _ _)).append (one _ _)).append (one _ _)).append (one _ _)).append (one _ _)).append (one _ _))

theorem holdIsDue_iff : holdIsDue s = true ↔ ∃ job, s.host = some job ∧ job.stage = .HELD (some 0) := by
  simp [holdIsDue, Option.any_eq_true]

theorem settleIsDue_iff {t : SettleTimer} : settleIsDue t = true ↔ ∃ n, t = .RUNNING n ∧ 20000 ≤ n := by
  cases t <;> simp [settleIsDue, settleTime]

/-- The expiries queued are those whose timer has run out (R32, R33, R75, R87, R114, R154, R159). -/
theorem mem_dueEvents {c : Instr} : c ∈ dueEvents s ↔ ExpiryDue s c := by
  simp only [dueEvents, List.mem_append, mem_dueIf, Bool.and_eq_true, beq_iff_eq, bne_iff_ne, decide_eq_true_eq, holdIsDue_iff,
    settleIsDue_iff]
  constructor
  · rintro ((((((⟨h, rfl⟩ | ⟨⟨h, p⟩, rfl⟩) | ⟨⟨h, t⟩, rfl⟩) | ⟨⟨job, h, t⟩, rfl⟩) | ⟨h, rfl⟩) | ⟨⟨r, t⟩, rfl⟩) | ⟨⟨h, n, r, t⟩, rfl⟩)
    · exact .mark h
    · exact .reset h p
    · obtain ⟨a, h⟩ := Option.isSome_iff_exists.1 h
      exact .response a h t
    · exact .hold job h t
    · exact .auto h
    · exact .window r (by simpa [windowIsOver] using t)
    · exact .settle n h r t
  · rintro (h | ⟨h, p⟩ | ⟨a, h, t⟩ | ⟨job, h, t⟩ | h | ⟨r, t⟩ | ⟨n, h, r, t⟩)
    · exact .inl (.inl (.inl (.inl (.inl (.inl ⟨h, rfl⟩)))))
    · exact .inl (.inl (.inl (.inl (.inl (.inr ⟨⟨h, p⟩, rfl⟩)))))
    · exact .inl (.inl (.inl (.inl (.inr ⟨⟨Option.isSome_iff_exists.2 ⟨a, h⟩, t⟩, rfl⟩))))
    · exact .inl (.inl (.inl (.inr ⟨⟨job, h, t⟩, rfl⟩)))
    · exact .inl (.inl (.inr ⟨h, rfl⟩))
    · exact .inl (.inr ⟨⟨r, by simpa [windowIsOver] using t⟩, rfl⟩)
    · exact .inr ⟨⟨h, n, r, t⟩, rfl⟩

/-- After an idle step the queue is an order of the expiries then due. -/
theorem pending_idleStep (s : State) : (idleStep s).pending.Perm (dueEvents (idleStep s)) := orderOf_perm _ _

theorem mem_pending_idleStep {c : Instr} : c ∈ (idleStep s).pending ↔ ExpiryDue (idleStep s) c :=
  (pending_idleStep s).mem_iff.trans mem_dueEvents

theorem step_idle (h : s.pending = []) : step s = .next (idleStep s) := by rw [step, h]

/-! What one microsecond moves. -/

theorem port_idleStep (s : State) : (idleStep s).port =
    { s.port with timer := if s.port.inFlight.isSome then s.port.timer + 1 else s.port.timer } := by
  show (if s.port.inFlight.isSome = true then _ else s.port) = _
  split <;> rfl

theorem ageHold_limited {job : HostJob} {n : Nat} (h : job.stage = .HELD (some n)) :
    ageHold job = { job with stage := .HELD (some (n - 1)) } := by
  rw [ageHold, h]

theorem ageHold_unlimited {job : HostJob} (h : ∀ n, job.stage ≠ .HELD (some n)) : ageHold job = job := by
  unfold ageHold
  split
  · next n e => exact absurd e (h n)
  · rfl

theorem ageSettle_still {t : SettleTimer} (h : ∀ n, t ≠ .RUNNING n) : ageSettle t = t := by
  unfold ageSettle
  split
  · exact absurd rfl (h _)
  · rfl

theorem ageMark_eq (m : MarkLine) : ageMark m = if m = .QUALIFYING then .QUALIFIED else m := by cases m <;> rfl

theorem ageReset_eq (r : ResetLine) : ageReset r = if r = .QUALIFYING then .QUALIFIED else r := by cases r <;> rfl

/-- RST# is timed outside BACKUP (R158, R159). -/
theorem rst_aged (s : State) : (idleStep s).rst = if s.rst = .QUALIFYING ∧ s.supply ≠ .BACKUP then .QUALIFIED else s.rst := by
  show (if s.supply = .BACKUP then s.rst else ageReset s.rst) = _
  by_cases h : s.supply = .BACKUP <;> simp [h, ageReset_eq]

end Sys2Proof.Machine

open Sys2Proof Sys2Proof.Machine

/-- Settles O4: the queue is an order of the due expiries, and every permutation is an order. -/
theorem dueExpiriesAreQueued : Obligations.DueExpiriesAreQueued :=
  ⟨fun s empty => ⟨idleStep s, step_idle empty, (pending_idleStep s).nodup_iff.2 (dueEvents_nodup _), fun _ => mem_pending_idleStep⟩,
    fun _ _ => exists_orderOf⟩

/-- Settles O3: timer by timer. -/
theorem idleStepLetsOneMicrosecondPass : Obligations.IdleStepLetsOneMicrosecondPass := by
  intro s empty
  have hosted : ∀ {job}, s.host = some job → (idleStep s).host = some (ageHold job) := by
    intro job h
    show s.host.map ageHold = _
    rw [h]
    rfl
  refine ⟨idleStep s, step_idle empty, fun run => ⟨if_pos run, if_pos run⟩, fun stopped => ?_, rfl, port_idleStep s, fun h => ?_,
    fun job n h held => ?_, fun job h other => ?_, fun n h timer => ?_, fun h => ?_, ageMark_eq s.mark, rst_aged s, rfl⟩
  · have off : ¬ isRunning s = true := by rw [stopped]; simp
    exact ⟨if_neg off, if_neg off⟩
  · show s.host.map ageHold = none
    rw [h]
    rfl
  · rw [hosted h, ageHold_limited held]
  · rw [hosted h, ageHold_unlimited other]
  · show (if s.supply = .SETTLING then ageSettle s.settle else s.settle) = _
    rw [if_pos h, timer]
    rfl
  · show (if s.supply = .SETTLING then ageSettle s.settle else s.settle) = _
    rcases h with off | still
    · exact if_neg off
    · rw [ageSettle_still still, ite_self]

end

section
/-! SUPPORT. The outcome history over the retention writes (O43). -/

namespace Sys2Proof.Machine

/-- The history never holds more than 8 records (R45). -/
theorem appendOutcome_length (o : OutcomeRecord) (history : List OutcomeRecord) : (appendOutcome o history).length ≤ 8 := by
  rw [appendOutcome, List.length_take]
  exact Nat.min_le_left _ _

/-- With room left an append drops nothing (R45). -/
theorem appendOutcome_room (o : OutcomeRecord) {history : List OutcomeRecord} (h : history.length < 8) :
    appendOutcome o history = o :: history :=
  List.take_of_length_le h

/-- With 8 records an append drops the oldest (R45). -/
theorem appendOutcome_full (o : OutcomeRecord) {older : List OutcomeRecord} (oldest : OutcomeRecord) (h : older.length = 7) :
    appendOutcome o (older ++ [oldest]) = o :: older := by
  rw [appendOutcome, ← List.cons_append]
  exact List.take_left' (by rw [List.length_cons, h])

end Sys2Proof.Machine

open Sys2Proof Sys2Proof.Machine

/-- Settles O43: an append takes the 8 newest. -/
theorem historyKeepsTheNewest : Obligations.HistoryKeepsTheNewest := by
  refine fun o history => ⟨appendOutcome_room o, ?_, appendOutcome_length o history⟩
  rintro older oldest rfl eight
  rw [List.length_append, List.length_singleton] at eight
  exact appendOutcome_full o oldest (by omega)

end

section
/-! SUPPORT. The ranges of the registers over every step (O8). -/

namespace Sys2Proof.Machine

variable {s t u : State}

/-! The history over the retention writes. -/

/-- A trusted store holds at most 8 outcome records (R45). -/
def HistoryInRange (r : Retention) : Prop := r.latch = true → r.history.length ≤ 8

theorem historyInRange_retire {r : Retention} (h : HistoryInRange r) (kind : OutcomeKind) (entries : Nat) (uptime : BitVec 32) :
    HistoryInRange (retireWrite kind entries uptime r) := by
  unfold retireWrite
  split
  · exact h
  · dsimp only
    split
    · exact fun _ => appendOutcome_length _ _
    · exact h

/-- Each retention write keeps the history in range (section 1.5). -/
theorem historyInRange_writeEffect {r : Retention} (h : HistoryInRange r) (s : State) (w : RetentionWrite) :
    HistoryInRange (writeEffect s w r) := by
  cases w
  case ALLOCATION =>
    rw [writeEffect]
    cases s.capture with
    | none => exact h
    | some job =>
      show HistoryInRange (allocationWrite job.line job.region r)
      unfold allocationWrite
      split <;> exact h
  case COMPLETION => rw [writeEffect]; cases s.capture <;> exact h
  case RELEASE => rw [writeEffect]; cases s.capture <;> exact h
  case RETIRE => exact historyInRange_retire h _ _ _
  case SEAL => exact fun _ => appendOutcome_length _ _
  case FINISH => exact fun _ => appendOutcome_length _ _
  case DISCARD => exact fun _ => appendOutcome_length _ _
  case CLEAR => exact h
  case MARK => exact h
  case BOOT_COUNT => exact h
  case INITIALISATION => exact fun _ => Nat.zero_le _

theorem historyInRange_made {w : RetentionWrite} {r : Retention} (h : HistoryInRange s.retention) (m : WriteMade s w r) : HistoryInRange r := by
  rw [← writeMade_iff.1 m]
  exact historyInRange_writeEffect h s w

theorem historyInRange_storeAfter (s : State) (ws : List RetentionWrite) {r : Retention} (h : HistoryInRange r) :
    HistoryInRange (storeAfter s ws r) := by
  induction ws generalizing r with
  | nil => exact h
  | cons w ws ih => exact ih (historyInRange_writeEffect h _ w)

/-! The tables and the meter records. -/

theorem get_replicate {α : Type} {n : Nat} (x : α) (i : Fin n) : (Vector.replicate n x).get i = x := by
  simp [Vector.get_eq_getElem]

/-- The default entry is in range (R100). -/
theorem defaultRegion_inRange : RegionInRange defaultRegion := by simp [RegionInRange, defaultRegion]

/-- A cleared meter record is in range beside any entry (R111, R116). -/
theorem clearMeter_inRange {r : Region} (h : RegionInRange r) : MeterInRange r clearMeter := by
  obtain ⟨-, -, -, qualify, -⟩ := h
  exact ⟨Nat.zero_le _, Nat.zero_le _, qualify, nofun⟩

/-- A window boundary keeps a meter record in range: the strikes stop short of the qualify value, or return to 0 with the trip (R118 to
R120). -/
theorem boundaryMeter_inRange {r : Region} {m : Meter} (hr : RegionInRange r) (h : MeterInRange r m) : MeterInRange r (boundaryMeter r m) := by
  obtain ⟨-, -, -, qualify, -⟩ := hr
  obtain ⟨count, latch, strikes, tripped⟩ := h
  unfold boundaryMeter
  split
  · exact ⟨count, latch, strikes, tripped⟩
  · next metered =>
    split
    · exact ⟨Nat.zero_le _, count, strikes, tripped⟩
    · dsimp only
      have bound : (if m.count > r.writeLimit then m.strikes + 1 else 0) ≤ r.qualify := by split <;> omega
      generalize (if m.count > r.writeLimit then m.strikes + 1 else 0) = gained at bound ⊢
      split
      · exact ⟨Nat.zero_le _, count, qualify, fun _ => ⟨by simpa using metered, rfl⟩⟩
      · next short => exact ⟨Nat.zero_le _, count, Nat.lt_of_le_of_ne bound short, nofun⟩

/-- The entry that STAGE_REGION stores has passed the checks of R106. -/
theorem regionFields_inRange {kind : Byte} {base limit : BitVec 24} {metered : Byte} {writeLimit : BitVec 24} {qualify action : Byte}
    {r : Region} (h : regionFields kind base limit metered writeLimit qualify action = some r) : RegionInRange r := by
  unfold regionFields at h
  split at h
  · split at h
    · next checks =>
      obtain ⟨order, nonzero, low, high⟩ := checks
      cases h
      exact ⟨order, Nat.one_le_iff_ne_zero.2 nonzero, Nat.lt_succ_iff.1 writeLimit.isLt, low, high⟩
    · cases h
  · cases h

/-! The ranges but for the response timer. -/

/-- The law of the ranges, but for the response timer, which the queue of waiting commands has a part in. -/
structure InRange (s : State) : Prop where
  active : ∀ i, RegionInRange (s.active.get i)
  staged : ∀ i, RegionInRange (s.staged.get i).entry
  meters : ∀ i, MeterInRange (s.active.get i) (s.meters.get i)
  report : ReportOk s.report
  highWater : 1 ≤ s.cfg.highWater ∧ s.cfg.highWater ≤ 256
  attempt : 1 ≤ s.restore.attempt ∧ s.restore.attempt ≤ 3
  history : HistoryInRange s.retention
  bits : s.link.bitCount ≤ 7
  begun : s.writeBegun = true → s.writes ≠ []

/-- The response timer stays at or below its limit, and its expiry waits once it stands there (R74, R75). -/
def ResponseTimed (s : State) : Prop :=
  s.port.inFlight.isSome = true → s.port.timer ≤ 200 ∧ (s.port.timer = 200 → .memoryResponseLimit ∈ s.pending)

theorem rangeLaw_iff : RangeLaw s ↔ InRange s ∧ ResponseTimed s :=
  ⟨fun h => ⟨{ h with report := ⟨h.log, h.dropped, h.repeats⟩ }, h.response⟩,
    fun ⟨h, timed⟩ => { h with log := h.report.1, dropped := h.report.2.1, repeats := h.report.2.2, response := timed }⟩

/-- The write in progress, if one is left, is known to have begun: one has been asked for (R1). -/
theorem begun_of_left (ws : List RetentionWrite) : (!ws.isEmpty) = true → ws ≠ [] := by cases ws <;> simp

/-- Work inside the running part keeps the ranges. -/
theorem InRange.internal (h : InRange s) (k : Internal s t) : InRange t where
  active := by rw [k.active]; exact h.active
  staged := by rw [k.staged]; exact h.staged
  meters i := by
    obtain ⟨latch, strikes, trip, count⟩ := k.meters i
    obtain ⟨hcount, hlatch, hstrikes, htrip⟩ := h.meters i
    rw [k.active, MeterInRange, latch, strikes, trip]
    exact ⟨count hcount, hlatch, hstrikes, htrip⟩
  report := k.report h.report
  highWater := by rw [k.cfg]; exact h.highWater
  attempt := k.attempt h.attempt
  history := by rw [k.retention]; exact h.history
  bits := by rw [k.link]; exact h.bits
  begun := by
    obtain ⟨ws, e, -⟩ := k.writes
    rw [k.writeBegun, e]
    exact fun begun => List.append_ne_nil_of_left_ne_nil (h.begun begun) _

/-- The application of the staged table keeps the ranges: a touched entry comes with a cleared meter record (R110, R111). -/
theorem InRange.applyStaged (h : InRange s) : InRange (applyStaged s) where
  active i := by
    show RegionInRange ((tabulate _).get i)
    rw [get_tabulate]
    split
    · exact h.staged i
    · exact h.active i
  staged i := by
    show RegionInRange (StagedRegion.entry ((tabulate _).get i))
    rw [get_tabulate]
    exact h.staged i
  meters i := by
    show MeterInRange ((tabulate _).get i) ((tabulate _).get i)
    rw [get_tabulate, get_tabulate]
    split
    · exact clearMeter_inRange (h.staged i)
    · exact h.meters i
  report := h.report
  highWater := h.highWater
  attempt := h.attempt
  history := h.history
  bits := h.bits
  begun := h.begun

/-- The take point of a setting keeps the ranges (R106, R124, R135, R179). -/
theorem InRange.setting (h : InRange s) {i : Instr} (hi : isSetting i = true) : InRange (linkAct i s).1 := by
  cases i <;> first | exact absurd hi Bool.noConfusion | skip
  case stageRegion index kind base limit metered writeLimit qualify action =>
    show InRange (actStageRegion index kind base limit metered writeLimit qualify action s).1
    unfold actStageRegion
    split
    · next i r _ fields =>
      refine { h with staged := fun j => ?_ }
      show RegionInRange ((s.staged.set i.val _ i.isLt).get j).entry
      by_cases same : i = j
      · subst same
        rw [get_set_eq]
        exact regionFields_inRange fields
      · rw [get_set_ne _ _ _ _ same]
        exact h.staged j
    · exact h
  case clearStaged =>
    refine { h with staged := fun j => ?_ }
    show RegionInRange (StagedRegion.entry ((tabulate _).get j))
    rw [get_tabulate]
    exact h.staged j
  case clearTrip index =>
    show InRange (actClearTrip index s).1
    unfold actClearTrip
    split
    · exact h
    · next i _ =>
      split
      · refine { h with meters := fun j => ?_ }
        show MeterInRange (s.active.get j) ((s.meters.set i.val _ i.isLt).get j)
        by_cases same : i = j
        · subst same
          obtain ⟨count, latch, -, -⟩ := h.meters i
          obtain ⟨-, -, -, qualify, -⟩ := h.active i
          rw [get_set_eq]
          exact ⟨count, latch, qualify, nofun⟩
        · rw [get_set_ne _ _ _ _ same]
          exact h.meters j
      · exact h
  case setConfig window hold level interval =>
    show InRange (actSetConfig window hold level interval s).1
    unfold actSetConfig
    split
    · exact { h with highWater := ⟨Nat.le_add_left _ _, level.isLt⟩ }
    · exact h
  case setEnables enables =>
    show InRange (actSetEnables enables s).1
    unfold actSetEnables
    split
    · exact { h with }
    · exact h
  case takeEvents => exact { h with }
  case takeRefusals n =>
    show InRange (actTakeRefusals n s).1
    unfold actTakeRefusals
    obtain ⟨log, dropped, repeats⟩ := h.report
    split
    · exact { h with report := ⟨(List.drop_sublist _ _).length_le.trans log, Nat.zero_le _, repeats⟩ }
    · exact h
  case clearFault =>
    obtain ⟨log, dropped, -⟩ := h.report
    exact { h with report := ⟨log, dropped, nofun⟩ }

/-! What a command keeps. -/

/-- The ranges are kept, an access that is new at the port starts its timer at 0 (R74), and the waiting commands stay. -/
structure RangesKept (s t : State) : Prop where
  ranges : InRange s → InRange t
  port : t.port.inFlight.isSome = true → t.port.timer = 0 ∨ (t.port.inFlight = s.port.inFlight ∧ t.port.timer = s.port.timer)
  pending : t.pending = s.pending

theorem RangesKept.refl (s : State) : RangesKept s s := ⟨id, fun _ => .inr ⟨rfl, rfl⟩, rfl⟩

theorem RangesKept.of_same (ranges : InRange s → InRange t) (port : t.port = s.port) (pending : t.pending = s.pending) : RangesKept s t :=
  ⟨ranges, fun _ => .inr (by rw [port]; exact ⟨rfl, rfl⟩), pending⟩

theorem RangesKept.of_idle (ranges : InRange s → InRange t) (port : t.port.inFlight = none) (pending : t.pending = s.pending) :
    RangesKept s t :=
  ⟨ranges, fun inFlight => absurd inFlight (by rw [port]; exact nofun), pending⟩

theorem Internal.rangesKept (k : Internal s t) : RangesKept s t := ⟨fun h => h.internal k, k.port, k.pending⟩

theorem RangesKept.trans (h : RangesKept s t) (k : RangesKept t u) : RangesKept s u where
  ranges := fun r => k.ranges (h.ranges r)
  port inFlight := by
    rcases k.port inFlight with zero | ⟨access, timer⟩
    · exact .inl zero
    · rcases h.port (access ▸ inFlight) with zero | ⟨access', timer'⟩
      · exact .inl (timer.trans zero)
      · exact .inr ⟨access.trans access', timer.trans timer'⟩
  pending := k.pending.trans h.pending

theorem SettingTaken.port (h : SettingTaken s t) : t.port = s.port := by rw [h.same]
theorem SettingTaken.pending (h : SettingTaken s t) : t.pending = s.pending := by rw [h.same]

/-- The plain update with which a command begins, but for the rows of the supply and of RST#. -/
theorem rangesKept_base {c : Instr} (k : Base s c t) (hc : isSupplyRow c = false) : RangesKept s t := by
  cases k with
  | same => exact .refl s
  | answered => exact .of_same (fun h => { h with }) rfl rfl
  | arrived => exact .of_same (fun h => { h with }) rfl rfl
  | mark => exact .of_same (fun h => { h with }) rfl rfl
  | window =>
    refine .of_same (fun h => { h with meters := fun i => ?_ }) rfl rfl
    show MeterInRange (s.active.get i) ((tabulate _).get i)
    rw [get_tabulate]
    exact boundaryMeter_inRange (h.active i) (h.meters i)
  | write w r ws ix head made =>
    exact .of_same (fun h => { h with history := historyInRange_made h.history made, begun := begun_of_left ws }) rfl rfl
  | dropped => exact .of_same (fun h => { h with begun := begun_of_left _ }) rfl rfl
  | sealing =>
    exact .of_same (fun h => InRange.applyStaged
      { h with history := historyInRange_made h.history (.sealing (s := s)), begun := begun_of_left _ }) rfl rfl
  | restarted w r head made =>
    exact .of_same (fun h => { h with history := historyInRange_made h.history made, begun := begun_of_left _ }) rfl rfl
  | supply _ _ _ row => rw [row] at hc; cases hc
  | link _ l _ _ bits => exact .of_same (fun h => { h with bits := bits h.bits }) rfl rfl
  | setting _ i l hi _ bits =>
    have k := settingTaken hi s
    exact .of_same (fun h => { h.setting hi with bits := bits h.bits }) k.port k.pending

/-! The rows of the supply and of RST#. -/

theorem discardFrame_bits {l : Link} (h : l.bitCount ≤ 7) : (discardFrame l).bitCount ≤ 7 := by
  unfold discardFrame
  split
  · exact h
  · exact Nat.zero_le _

theorem rangesKept_stopPart (n : Nat) (stopped : isRunning s = false) : RangesKept s (stopPart n s) := by
  rw [stopPart_eq n stopped]
  refine .of_idle (fun h => ?_) rfl rfl
  exact
    { h with
      attempt := ⟨Nat.le_refl 1, (by decide : 1 ≤ 3)⟩
      history := historyInRange_storeAfter s _ h.history
      bits := discardFrame_bits h.bits
      begun := nofun }

theorem rangesKept_enterFailing (n : Nat) : RangesKept s (enterFailing n s) :=
  RangesKept.trans (t := { s with supply := .FAILING, settle := .STOPPED }) (.of_same (fun h => { h with }) rfl rfl)
    (rangesKept_stopPart n rfl)

/-- What a restart gives the tables, the reports and the configuration is in range (section 9.7). -/
theorem InRange.startVolatile (h : InRange s) {writes : List RetentionWrite} {begun : Bool} (asked : begun = true → writes ≠ []) :
    InRange { startVolatile s with writes := writes, writeBegun := begun } where
  active i := by show RegionInRange ((Vector.replicate 16 _).get i); rw [get_replicate]; exact defaultRegion_inRange
  staged i := by show RegionInRange (StagedRegion.entry ((Vector.replicate 16 _).get i)); rw [get_replicate]; exact defaultRegion_inRange
  meters i := by
    show MeterInRange ((Vector.replicate 16 _).get i) ((Vector.replicate 16 _).get i)
    rw [get_replicate, get_replicate]
    exact clearMeter_inRange defaultRegion_inRange
  report := ⟨Nat.zero_le _, Nat.zero_le _, nofun⟩
  highWater := (by decide : 1 ≤ 192 ∧ 192 ≤ 256)
  attempt := (by decide : 1 ≤ 1 ∧ 1 ≤ 3)
  history := h.history
  bits := h.bits
  begun := asked

theorem rangesKept_loseStore (s : State) : RangesKept s (loseStore s) := .of_same (fun h => { h with history := nofun }) rfl rfl

theorem rangesKept_enterBackup (low : Bool) : RangesKept s (enterBackup low s) := by
  have unpowered : RangesKept s (enterBackup false s) :=
    .of_idle (fun h => { h.startVolatile (writes := []) (begun := false) nofun with bits := Nat.zero_le _ }) rfl rfl
  cases low with
  | false => exact unpowered
  | true => exact unpowered.trans (rangesKept_loseStore _)

theorem rangesKept_beginRestart (s : State) : RangesKept s (beginRestart s) := .of_idle (fun h => h.startVolatile nofun) rfl rfl

/-- A move of the supply, of RST# or of the counter of free values is no matter of the ranges. -/
theorem rangesKept_moved (s : State) (supply : SupplyState) (settle : SettleTimer) (line : ResetLine) (force : Bool) (free : Nat) :
    RangesKept s { s with supply := supply, settle := settle, rst := line, resetInForce := force, free := free } :=
  .of_same (fun h => { h with }) rfl rfl

theorem rangesKept_settleEnds (s : State) : RangesKept s (settleEnds s) := by
  unfold settleEnds
  split
  · exact rangesKept_moved s .RUN .STOPPED .ASSERTED true s.free
  · exact (rangesKept_moved s s.supply .EXPIRED s.rst s.resetInForce s.free).trans (rangesKept_beginRestart _)

theorem rangesKept_releaseReset (s : State) : RangesKept s (releaseReset s) := by
  have high := fun force => rangesKept_moved s s.supply s.settle .HIGH force s.free
  unfold releaseReset
  split
  · exact (high s.resetInForce).trans (rangesKept_beginRestart _)
  · exact (high false).trans (rangesKept_beginRestart _)
  · exact high false

theorem rangesKept_supplyRow {c : Instr} (hc : isSupplyRow c = true) (e : exec c s = .next t) : RangesKept s t := by
  have line := fun line => rangesKept_moved s s.supply s.settle line s.resetInForce s.free
  have failing : ∀ n, RangesKept s (enterFailing n (useFree s)) := fun n =>
    (rangesKept_moved s s.supply s.settle s.rst s.resetInForce (s.free + 1)).trans (rangesKept_enterFailing n)
  cases c <;> first | exact absurd hc Bool.noConfusion | cases e
  case vddFail =>
    split
    · exact failing _
    · exact failing _
    · exact .refl s
    · exact .refl s
  case vddSwitchOver low =>
    split
    · exact (failing _).trans (rangesKept_enterBackup low)
    · exact (failing _).trans (rangesKept_enterBackup low)
    · exact rangesKept_enterBackup low
    · exact .refl s
  case vddGood =>
    split
    · exact rangesKept_moved s .SETTLING (.RUNNING 0) s.rst s.resetInForce s.free
    · exact rangesKept_moved s .SETTLING (.RUNNING 0) s.rst s.resetInForce s.free
    · exact .refl s
    · exact .refl s
  case settleTimerExpiry =>
    split
    · exact rangesKept_settleEnds s
    · exact .refl s
  case vbkLow =>
    split
    · exact rangesKept_loseStore s
    · exact .refl s
  case firstPower => exact ((rangesKept_enterFailing 0).trans (rangesKept_enterBackup false)).trans (rangesKept_loseStore _)
  case rstAssert =>
    split
    · exact (rangesKept_moved s s.supply s.settle .ASSERTED true (s.free + 1)).trans (rangesKept_stopPart _ (by simp [isRunning]))
    · exact .refl s
  case rstRelease =>
    split
    · exact .refl s
    · exact line .HIGH
    · exact line .HIGH
    · exact line .HIGH
    · exact rangesKept_releaseReset s
  case rstFallingEdge =>
    split
    · exact line .QUALIFYING
    · exact .refl s

/-! Every step. -/

theorem rangesKept_exec {c : Instr} (e : exec c s = .next t) : RangesKept s t := by
  cases supply : isSupplyRow c with
  | true => exact rangesKept_supplyRow supply e
  | false =>
    obtain ⟨b, t', e', base, work⟩ := exec_shape c s
    obtain rfl : t' = t := by rw [e] at e'; cases e'; rfl
    exact (rangesKept_base base supply).trans work.rangesKept

/-- The end of an access leaves the port IDLE: what is in flight after it has been issued since (R74, R75). -/
theorem endAccess_timer (r : PortResult) (s : State) (inFlight : (arbitrate (endAccess r s)).port.inFlight.isSome = true) :
    (arbitrate (endAccess r s)).port.timer = 0 := by
  have work : Internal { s with port := { s.port with inFlight := none, timer := 0 } } (arbitrate (endAccess r s)) := by
    refine internal_arbitrate ?_
    unfold endAccess
    dsimp only
    split
    · exact .refl _
    · exact internal_holderResult _ _ (.refl _)
  rcases work.port inFlight with zero | ⟨-, zero⟩
  · exact zero
  · exact zero

/-- The response limit ends an access whose timer stands at the limit (R75). -/
theorem takeResponseLimit_timer (s : State) (inFlight : (takeResponseLimit s).port.inFlight.isSome = true) :
    (takeResponseLimit s).port.timer < 200 := by
  revert inFlight
  unfold takeResponseLimit
  split
  · next idle => rw [idle]; exact nofun
  · split
    · next early => exact fun _ => early
    · intro inFlight
      rw [endAccess_timer _ _ inFlight]
      decide

theorem responseTimed_exec {c : Instr} {rest : List Instr} (h : ResponseTimed { s with pending := c :: rest })
    (e : exec c { s with pending := rest } = .next t) : ResponseTimed t := by
  intro inFlight
  have kept := rangesKept_exec e
  by_cases limit : c = .memoryResponseLimit
  · subst limit
    cases e
    have timer := takeResponseLimit_timer _ inFlight
    exact ⟨Nat.le_of_lt timer, fun full => absurd full (Nat.ne_of_lt timer)⟩
  · rcases kept.port inFlight with zero | ⟨access, timer⟩
    · rw [zero]
      exact ⟨Nat.zero_le _, nofun⟩
    · obtain ⟨bound, due⟩ := h (access ▸ inFlight)
      rw [timer, kept.pending]
      exact ⟨bound, fun full => (List.mem_cons.1 (due full)).resolve_left (Ne.symm limit)⟩

/-- One microsecond moves the response timer up to its limit, where its expiry is queued (R74, R75). -/
theorem responseTimed_idleStep (h : ResponseTimed s) (empty : s.pending = []) : ResponseTimed (idleStep s) := by
  intro inFlight
  rw [port_idleStep] at inFlight
  obtain ⟨bound, due⟩ := h inFlight
  have short : s.port.timer ≠ 200 := fun full => by have waits := due full; rw [empty] at waits; cases waits
  obtain ⟨a, access⟩ := Option.isSome_iff_exists.1 inFlight
  have timer : (idleStep s).port.timer = s.port.timer + 1 := by rw [port_idleStep]; exact if_pos inFlight
  refine ⟨by omega, fun full => mem_pending_idleStep.2 (.response a ?_ (Nat.le_of_eq full.symm))⟩
  rw [port_idleStep]
  exact access

theorem rangeLaw_step (h : RangeLaw s) (e : step s = .next t) : RangeLaw t := by
  obtain ⟨ranges, timed⟩ := rangeLaw_iff.1 h
  unfold step at e
  split at e
  · next empty =>
    cases e
    exact rangeLaw_iff.2 ⟨{ ranges with }, responseTimed_idleStep timed empty⟩
  · next c rest waiting =>
    refine rangeLaw_iff.2 ⟨(rangesKept_exec e).ranges { ranges with }, responseTimed_exec (s := s) ?_ e⟩
    rw [← waiting]
    exact timed

end Sys2Proof.Machine

open Sys2Proof Sys2Proof.Machine

/-- Settles O8: a command keeps the ranges by its shape, and the response timer stands at its limit only while its expiry waits. -/
theorem rangeLawKept : Obligations.RangeLawKept := fun _ _ h e => rangeLaw_step h e

end

section
/-! SUPPORT. The state after reset and the laws that steps keep (O6). -/

namespace Sys2Proof.Machine

/-- The part runs after reset with nothing asked for and no event enabled (log 1). -/
theorem runs_reset : Runs State.reset where
  running := rfl
  on := nofun
  writes := nofun
  released := nofun
  alert := by simp [AlertLaw, State.reset]

theorem inRange_reset : InRange State.reset where
  active i := by
    show RegionInRange ((Vector.replicate 16 _).get i)
    rw [get_replicate]
    exact defaultRegion_inRange
  staged i := by
    show RegionInRange (StagedRegion.entry ((Vector.replicate 16 _).get i))
    rw [get_replicate]
    exact defaultRegion_inRange
  meters i := by
    show MeterInRange ((Vector.replicate 16 _).get i) ((Vector.replicate 16 _).get i)
    rw [get_replicate, get_replicate]
    exact clearMeter_inRange defaultRegion_inRange
  report := ⟨Nat.zero_le _, Nat.zero_le _, nofun⟩
  highWater := by decide
  attempt := by decide
  history _ := Nat.zero_le _
  bits := Nat.zero_le _
  begun := nofun

/-- After reset the part is ready for an entry to OPEN: the journal is as the initialisation write leaves it (R2). -/
theorem ready_reset : Ready State.reset where
  latch := rfl
  index := rfl
  queue := rfl
  capture := rfl
  writes := rfl
  restore := rfl
  header := rfl
  shape := shape_initialisation initialStore
  read := nofun
  turns := Nat.zero_le _
  restored := Nat.zero_le _

end Sys2Proof.Machine

open Sys2Proof Sys2Proof.Machine

/-- Settles O6: law by law. -/
theorem resetMeetsTheLaws : Obligations.ResetMeetsTheLaws :=
  ⟨runs_reset.supplyLaw, rangeLaw_iff.2 ⟨inRange_reset, nofun⟩, (ready_reset.lawful State.reset.ctl rfl).journalLaw⟩

end

section
/-! SUPPORT. The drain checks, commit requests, the entry to OPEN and the end of a posted write (O29, O38, O45, O46). -/

namespace Sys2Proof.Machine

variable {s t : State}

/-! Drain checks. -/

/-- The drain of a rollback is complete: the unwinding mark is asked for (R56, R57). -/
theorem rollbackDrainCheck_drained (state : s.ctl.state = .ROLLBACK) (drained : isDrained s = true)
    (header : s.retention.header.state ≠ .UNWINDING) (writes : s.writes = []) : rollbackDrainCheck s = { s with writes := [.MARK] } := by
  rw [rollbackDrainCheck_eq, if_pos ⟨state, drained, header, writes⟩]

/-- The drain of a commit is complete: the fault check decides (R37). -/
theorem commitDrainCheck_drained (state : s.ctl.state = .DRAINING) (drained : isDrained s = true)
    (header : s.retention.header.state ≠ .SEALED) (writes : s.writes = []) : commitDrainCheck s = faultCheck s := by
  rw [commitDrainCheck, if_pos ⟨state, drained, header, writes⟩]

theorem commitDrainCheck_busy (h : isDrained s = false) : commitDrainCheck s = s := by
  rw [commitDrainCheck, if_neg (by rw [h]; simp)]

/-- An epoch that is not faulted asks for its seal (R38). -/
theorem faultCheck_sound (h : s.ctl.faulted = false) (writes : s.writes = []) : faultCheck s = { s with writes := [.SEAL] } := by
  rw [faultCheck, h, if_neg Bool.false_ne_true, askWrite, writes]
  rfl

/-- A held request is evaluated again at the entry to ROLLBACK (R51, R88). -/
theorem enterRollback_eq (cause : RollbackCause) (s : State) : enterRollback cause s =
    reevaluate { s with ctl := { s.ctl with state := .ROLLBACK, cause := some cause, autoTimer := none } } := rfl

/-- A faulted epoch turns into a rollback with cause FAULT, whose drain is complete too (R38, R55, R57). -/
theorem faultCheck_faulted (h : s.ctl.faulted = true) (drained : isDrained s = true) (header : s.retention.header.state ≠ .UNWINDING)
    (writes : s.writes = []) : faultCheck s =
      { reevaluate { s with ctl := { s.ctl with state := .ROLLBACK, cause := some .FAULT, autoTimer := none } } with writes := [.MARK] } := by
  have answered : HostAnswered _ (enterRollback .FAULT s) := reevaluate_closed (by simp)
  rw [faultCheck, if_pos h, rollbackDrainCheck_drained (congrArg Controller.state answered.ctl) (answered.drained.trans drained)
    (by rw [answered.retention]; exact header) (answered.writes.trans writes), enterRollback_eq]

/-- The drain is checked in DRAINING and in ROLLBACK alone (R37, R56). -/
theorem drainCheck_elsewhere (h1 : s.ctl.state ≠ .DRAINING) (h2 : s.ctl.state ≠ .ROLLBACK) : drainCheck s = s := by
  unfold drainCheck
  split
  · next state => exact absurd state h1
  · next state => exact absurd state h2
  · rfl

theorem drainCheck_draining (h : s.ctl.state = .DRAINING) : drainCheck s = commitDrainCheck s := by rw [drainCheck, h]

theorem drainCheck_rollback (h : s.ctl.state = .ROLLBACK) : drainCheck s = rollbackDrainCheck s := by rw [drainCheck, h]

/-! Commit requests. -/

/-- The change to DRAINING answers the host at most (R82, R88). -/
theorem drainBegun_answered (s : State) : HostAnswered { s with ctl := { s.ctl with state := .DRAINING, autoTimer := none } } (drainBegun s) :=
  reevaluate_closed (by simp)

/-- What follows from a commit request is what the controller makes of it (R29, R31, R36 to R39, R55). -/
theorem CommitTaken.commitRequest {result : LinkResult} (h : CommitTaken s t result) : commitRequest s = (t, result) := by
  have answered := drainBegun_answered s
  have state : (drainBegun s).ctl.state = .DRAINING := congrArg Controller.state answered.ctl
  have faulted : (drainBegun s).ctl.faulted = s.ctl.faulted := by rw [answered.ctl]
  have taken : s.ctl.state = .OPEN → Machine.commitRequest s = (commitDrainCheck (drainBegun s), .DONE) := by
    intro opened
    rw [Machine.commitRequest, opened]
    rfl
  cases h with
  | drains opened busy => rw [taken opened, commitDrainCheck_busy (answered.drained.trans busy)]
  | seals opened drained sound header writes =>
    rw [taken opened, commitDrainCheck_drained state (answered.drained.trans drained) (by rw [answered.retention]; exact header)
      (answered.writes.trans writes), faultCheck_sound (faulted.trans sound) (answered.writes.trans writes)]
  | fails opened drained fault header writes =>
    have unwinds : s.retention.header.state ≠ .UNWINDING := by rcases header with e | e <;> rw [e] <;> simp
    have sealed : s.retention.header.state ≠ .SEALED := by rcases header with e | e <;> rw [e] <;> simp
    rw [taken opened, commitDrainCheck_drained state (answered.drained.trans drained) (by rw [answered.retention]; exact sealed)
      (answered.writes.trans writes), faultCheck_faulted (faulted.trans fault) (answered.drained.trans drained)
      (by rw [answered.retention]; exact unwinds) (answered.writes.trans writes), answered.ctl]
  | queued state => rcases state with e | e <;> rw [Machine.commitRequest, e]
  | ignored state => rcases state with e | e | e <;> rw [Machine.commitRequest, e]

/-- A re-evaluation reads nothing of the MARK line (R88). -/
theorem reevaluate_mark (m : MarkLine) (s : State) : reevaluate { s with mark := m } = { reevaluate s with mark := m } := by
  have kept : aside m s.ctl (reevaluate s) = aside m (reevaluate s).ctl (reevaluate s) := by rw [reevaluate_ctl]
  exact (reevaluate_aside m s.ctl s rfl).trans kept

theorem drainBegun_mark (m : MarkLine) (s : State) : drainBegun { s with mark := m } = { drainBegun s with mark := m } :=
  reevaluate_mark m { s with ctl := { s.ctl with state := .DRAINING, autoTimer := none } }

/-- The rollback with cause FAULT of an epoch found drained at its take: a held request is evaluated at both changes of state, and the mark
is asked for (R36, R38, R55, R88). -/
def faultBegun (s : State) : State :=
  { reevaluate { drainBegun s with ctl := { s.ctl with state := .ROLLBACK, cause := some .FAULT, autoTimer := none } } with
    writes := [.MARK] }

theorem faultBegun_mark (m : MarkLine) (s : State) : faultBegun { s with mark := m } = { faultBegun s with mark := m } := by
  rw [faultBegun, drainBegun_mark]
  exact congrArg (fun u => { u with writes := [.MARK] })
    (reevaluate_mark m { drainBegun s with ctl := { s.ctl with state := .ROLLBACK, cause := some .FAULT, autoTimer := none } })

/-- What follows from a commit request does not depend on the MARK line (R31). -/
theorem CommitTaken.mark {result : LinkResult} (h : CommitTaken s t result) (m : MarkLine) :
    CommitTaken { s with mark := m } { t with mark := m } result := by
  cases h with
  | drains opened busy =>
    rw [← drainBegun_mark]
    exact .drains opened busy
  | seals opened drained sound header writes =>
    show CommitTaken _ { ({ drainBegun s with mark := m } : State) with writes := [.SEAL] } _
    rw [← drainBegun_mark]
    exact .seals opened drained sound header writes
  | fails opened drained fault header writes =>
    show CommitTaken _ { faultBegun s with mark := m } _
    rw [← faultBegun_mark]
    exact .fails opened drained fault header writes
  | queued state => exact .queued state
  | ignored state => exact .ignored state

theorem CommitTaken.stopped {result : LinkResult} (h : CommitTaken s t result) (stopped : t.ctl.autoTimer = none) :
    CommitTaken s { t with ctl := { t.ctl with autoTimer := none } } result := by
  rw [← stopped]
  exact h

/-- What follows from a commit request stops the auto-commit timer, or leaves it as it stood (R33, R36). -/
theorem CommitTaken.untimed {result : LinkResult} (h : CommitTaken s t result) :
    CommitTaken { s with ctl := { s.ctl with autoTimer := none } } { t with ctl := { t.ctl with autoTimer := none } } result := by
  have begun : (drainBegun s).ctl.autoTimer = none := by rw [(drainBegun_answered s).ctl]
  cases h with
  | drains opened busy => exact CommitTaken.stopped (t := drainBegun s) (.drains opened busy) begun
  | seals opened drained sound header writes =>
    exact CommitTaken.stopped (t := { drainBegun s with writes := [.SEAL] }) (.seals opened drained sound header writes) begun
  | fails opened drained fault header writes =>
    refine CommitTaken.stopped (t := faultBegun s) (.fails opened drained fault header writes) ?_
    show (reevaluate _).ctl.autoTimer = none
    rw [reevaluate_ctl]
  | queued state => exact .queued state
  | ignored state => exact .ignored state

/-- A commit request that is answered DONE is taken in OPEN (R31, R36). -/
theorem CommitTaken.takeCommit (h : CommitTaken s t .DONE) : takeCommit s = t := by
  have opened : s.ctl.state = .OPEN := by cases h <;> assumption
  have request := h.commitRequest
  rw [Machine.commitRequest, opened] at request
  exact congrArg Prod.fst request

/-! Entry to OPEN. -/

/-- The state at the entry to OPEN before a pending commit is taken (R27, R33, R88). -/
def openedState (s : State) : State :=
  reevaluate
    { s with ctl := { s.ctl with state := .OPEN, faulted := false, stallOrigin := none, autoTimer := fullInterval s.cfg.autoInterval } }

theorem enterOpen_eq (s : State) : enterOpen s =
    if s.ctl.pendingCommit then takeCommit { openedState s with ctl := { (openedState s).ctl with pendingCommit := false } }
    else openedState s := by
  have pending : (openedState s).ctl.pendingCommit = s.ctl.pendingCommit := by rw [openedState, reevaluate_ctl]
  rw [← pending]
  rfl

/-! The end of a posted write. -/

/-- The head leaves the queue at its OK (R93). -/
theorem headResult_ok {e : QueueEntry} {rest : List QueueEntry} (h : s.queue = e :: rest) (data : Lanes) :
    headResult (.OK data) s = drainCheck (endHazard (reevaluate { s with arbiter := { s.arbiter with grant := none }, queue := rest })) := by
  unfold headResult
  rw [h]
  rfl

/-- The head leaves the queue at its failure too, which is reported (R28, R93, R94). -/
theorem headResult_failed {e : QueueEntry} {rest : List QueueEntry} (h : s.queue = e :: rest) (cause : Cause) :
    headResult (.FAILED cause) s = drainCheck (endHazard (reevaluate (recordFault .POSTED_WRITE cause e.addr e.epochTag
      { s with
        arbiter := { s.arbiter with grant := none }, queue := rest
        ctl := { s.ctl with faulted := s.ctl.faulted || e.cls == .GUARDED } }))) := by
  unfold headResult
  rw [h]
  dsimp only
  rw [failedPost_eq]
  rfl

end Sys2Proof.Machine

open Sys2Proof Sys2Proof.Machine

/-- Settles O38: by the state in which the drain is checked. -/
theorem drainIsChecked : Obligations.DrainIsChecked := by
  refine fun s => ⟨fun state drained writes header sound => ?_, fun state drained writes header unwinds fault => ?_,
    fun state drained writes header => ?_, drainCheck_busy, drainCheck_elsewhere⟩
  · rw [drainCheck_draining state, commitDrainCheck_drained state drained header writes, faultCheck_sound sound writes]
  · rw [drainCheck_draining state, commitDrainCheck_drained state drained header writes, faultCheck_faulted fault drained unwinds writes]
  · rw [drainCheck_rollback state, rollbackDrainCheck_drained state drained header writes]

/-- Settles O46: each source makes the same request, with its own line or timer moved. -/
theorem commitRequests : Obligations.CommitRequests := by
  refine fun s t result taken => ⟨fun qualified => ?_, fun expired => ?_, fun ready => ?_⟩
  · have row : exec .markRequest s = .next (commitRequest { s with mark := .HIGH }).1 := congrArg Host.Outcome.next (if_pos qualified)
    rw [row, (taken.mark .HIGH).commitRequest]
  · have row : exec .autoCommitExpiry s = .next (commitRequest { s with ctl := { s.ctl with autoTimer := none } }).1 :=
      congrArg Host.Outcome.next (if_pos expired)
    rw [row, taken.untimed.commitRequest]
  · have row : exec .commit s = .next (atTakePoint .commit actCommit s) := rfl
    rw [row, atTakePoint_ready ready, actCommit, taken.commitRequest]
    rfl

/-- Settles O45: the entry is one update and a re-evaluation, and a pending commit is taken as in OPEN. -/
theorem entryToOpen : Obligations.EntryToOpen := by
  rintro s opened rfl
  refine ⟨fun unasked => ?_, fun pending t taken => ?_⟩
  · rw [enterOpen_eq, if_neg (by rw [unasked]; simp)]
    rfl
  · rw [enterOpen_eq, if_pos pending]
    exact taken.takeCommit

/-- Settles O29: the result goes to the queue head (R93, R94). -/
theorem postedWriteEnds : Obligations.PostedWriteEnds := by
  intro s c a r port e rest powered ends grant queue
  have row := exec_accessEnds powered ends grant
  have result : holderResult .QUEUE_HEAD r { s with port := port } = headResult r { s with port := port } := rfl
  rw [row, result]
  refine ⟨?_, ?_⟩
  · rintro data rfl
    rw [headResult_ok (s := { s with port := port }) queue]
  · rintro cause rfl
    rw [headResult_failed (s := { s with port := port }) queue]

end

section
/-! SUPPORT. SET_CONFIG and the timer that it restarts (O47), TAKE_REFUSALS and the layout of its records (O60). -/

namespace Sys2Proof.Machine

variable {s : State}

/-! SET_CONFIG. -/

theorem codeField_of {b : Byte} {c : Fin 8} (h : b.toNat = c.val) : codeField b = some c := by
  rw [codeField, dif_pos (h ▸ c.isLt)]
  exact congrArg some (Fin.ext h)

theorem codeField_none {b : Byte} (h : 8 ≤ b.toNat) : codeField b = none := dif_neg (Nat.not_lt.2 h)

/-- SET_CONFIG with a code out of range (R179, R186). -/
theorem actSetConfig_invalid {window hold : Byte} (h : 8 ≤ window.toNat ∨ 8 ≤ hold.toNat) (level : Byte) (interval : BitVec 16) :
    actSetConfig window hold level interval s = (s, answerOf .INVALID []) := by
  unfold actSetConfig
  rcases h with h | h
  · rw [codeField_none h]
  · rw [codeField_none h]
    cases codeField window <;> rfl

/-- SET_CONFIG with both codes in range stores its four values together (R179). -/
theorem actSetConfig_stores {window hold : Byte} {w h : Fin 8} (hw : window.toNat = w.val) (hh : hold.toNat = h.val) (level : Byte)
    (interval : BitVec 16) : actSetConfig window hold level interval s =
      ({ s with
          cfg := { windowCode := w, holdCode := h, highWater := level.toNat + 1, autoInterval := interval }
          ctl := { s.ctl with autoTimer := retimeAutoCommit interval s } }, answerOf .DONE []) := by
  rw [actSetConfig, codeField_of hw, codeField_of hh]

/-- A full interval has not run out (R33). -/
theorem fullInterval_running (interval : BitVec 16) : fullInterval interval ≠ some 0 := by
  unfold fullInterval
  split
  · exact nofun
  · next on =>
    intro out
    have zero : interval.toNat = 0 := by have := Option.some.inj out; omega
    exact on (BitVec.eq_of_toNat_eq zero)

/-- The expiry of a timer that has not run out commits nothing (R35, log 23). -/
theorem exec_autoCommitExpiry_early (h : s.ctl.autoTimer ≠ some 0) : exec .autoCommitExpiry s = .next s :=
  congrArg Host.Outcome.next (if_neg h)

/-! TAKE_REFUSALS. -/

theorem sizeByte_toNat (size : Size) : (sizeByte size).toNat = match size with | .one => 1 | .two => 2 | .four => 4 := by
  cases size <;> rfl

/-- A region index of a refusal record fits its byte, and 255 stands for none (R187). -/
theorem regionByte_toNat (region : Option RegionNo) : (regionByte region).toNat = match region with | some i => i.val | none => 255 := by
  cases region with
  | none => rfl
  | some i => exact Nat.mod_eq_of_lt (Nat.lt_trans i.isLt (by decide))

theorem refusalBytes_toNat (r : RefusalRecord) : (refusalBytes r).map (·.toNat) =
    be2 r.seq.toNat ++ be4 r.uptime.toNat ++ [(requestKindCode r.kind).toNat] ++ be3 r.addr.toNat
      ++ [match r.size with | .one => 1 | .two => 2 | .four => 4, (reasonCode r.reason).toNat,
          match r.region with | some i => i.val | none => 255]
      ++ be4 r.epoch.toNat := by
  simp only [refusalBytes, List.map_append, List.map_cons, List.map_nil, bytes16_toNat, bytes24_toNat, bytes32_toNat, sizeByte_toNat,
    regionByte_toNat]

/-- TAKE_REFUSALS with a number out of range (R136). -/
theorem actTakeRefusals_invalid {n : Byte} (h : n = 0 ∨ 5 ≤ n.toNat) : actTakeRefusals n s = (s, answerOf .INVALID []) := by
  refine if_neg fun ⟨low, high⟩ => ?_
  rcases h with rfl | h
  · exact absurd low (by decide)
  · omega

/-- TAKE_REFUSALS takes the oldest records, and the dropped count with them (R135). -/
theorem actTakeRefusals_takes {n : Byte} (low : 1 ≤ n.toNat) (high : n.toNat ≤ 4) : actTakeRefusals n s =
    ({ s with report := { s.report with log := s.report.log.drop n.toNat, dropped := 0 } },
      [0x00, BitVec.ofNat 8 (min n.toNat s.report.log.length), BitVec.ofNat 8 s.report.dropped]
        ++ (s.report.log.take n.toNat).flatMap refusalBytes) := by
  rw [actTakeRefusals, if_pos ⟨low, high⟩, ← List.length_take]
  rfl

end Sys2Proof.Machine

open Sys2Proof Sys2Proof.Machine

/-- Settles O47: each row by its ground. -/
theorem markLineAndIdleTimers : Obligations.MarkLineAndIdleTimers := by
  refine fun s => ⟨fun low on => ?_, fun low off => ?_, fun high => congrArg Host.Outcome.next (if_neg high), rfl,
    fun early => congrArg Host.Outcome.next (if_neg early), exec_autoCommitExpiry_early,
    fun window hold level interval t ready hw hh opened changed taken => ?_, fun early => ?_⟩
  · show Host.Outcome.next _ = _
    rw [if_pos low, if_neg on]
  · show Host.Outcome.next _ = _
    rw [if_pos low, if_pos off]
  · have row : exec (.setConfig window hold level interval) s =
      .next (atTakePoint (.setConfig window hold level interval) (actSetConfig window hold level interval) s) := rfl
    rw [row, atTakePoint_ready ready, actSetConfig_stores (w := ⟨_, hw⟩) (h := ⟨_, hh⟩) rfl rfl] at taken
    cases taken
    refine exec_autoCommitExpiry_early ?_
    show retimeAutoCommit interval s ≠ some 0
    rw [retimeAutoCommit, if_pos ⟨opened, changed⟩]
    exact fullInterval_running interval
  · refine congrArg Host.Outcome.next (if_neg ?_)
    rcases early with stopped | short
    · rw [stopped]
      simp
    · simp [windowIsOver, short]

/-- Settles O60: each command at its take point, then the layout of a record and its codes. -/
theorem configAndReportCommands : Obligations.ConfigAndReportCommands := by
  have take_point : ∀ {s : State} {i : Instr} (act : State → State × List Byte), exec i s = .next (atTakePoint i act s) →
      FrameReady i s → exec i s = .next { (act s).1 with link := answeredLink i (act s).2 } :=
    fun act row ready => row.trans (congrArg Host.Outcome.next (atTakePoint_ready ready act))
  refine ⟨fun s window hold level interval ready => ⟨fun out => ?_, fun w h hw hh => ?_⟩,
    fun s n ready => ⟨fun low high => ?_, fun out => ?_⟩, fun s ready => take_point _ rfl ready, refusalBytes_toNat, rfl, rfl⟩
  · exact exec_reads rfl ready (actSetConfig_invalid out level interval)
  · rw [take_point _ rfl ready, actSetConfig_stores hw hh]
    rfl
  · rw [take_point _ rfl ready, actTakeRefusals_takes low high]
  · exact exec_reads rfl ready (actTakeRefusals_invalid out)

end

section
/-! SUPPORT. The end of a restore word write, and the commands of a stall (O31, O50). -/

namespace Sys2Proof.Machine

variable {s : State}

/-! A restore word. -/

/-- The word before the last is done: the cursor goes on to the next word (R59). -/
theorem restoreResult_nextWord (writes : s.restore.state = .WRITING) (more : s.restore.word ≠ 7) (data : Lanes) :
    restoreResult (.OK data) s = { s with restore := { s.restore with word := s.restore.word + 1, attempt := 1 } } := by
  rw [restoreResult, if_neg (not_not.2 writes)]
  exact if_neg more

/-- Word 7 is done: the port is released, the slot counted and its retire asked for (R59). -/
theorem restoreResult_lastWord (writes : s.restore.state = .WRITING) (last : s.restore.word = 7) (data : Lanes) :
    restoreResult (.OK data) s =
      { s with
        arbiter := { s.arbiter with grant := none }, writes := s.writes ++ [.RETIRE]
        restore := { s.restore with state := .RETIRING, word := 0, attempt := 1, restored := s.restore.restored + 1 } } := by
  rw [restoreResult, if_neg (not_not.2 writes)]
  exact if_pos last

/-- A failure with an attempt left tries the word again (R60). -/
theorem restoreResult_tryAgain (writes : s.restore.state = .WRITING) (left : s.restore.attempt < 3) (cause : Cause) :
    restoreResult (.FAILED cause) s = { s with restore := { s.restore with attempt := s.restore.attempt + 1 } } := by
  rw [restoreResult, if_neg (not_not.2 writes)]
  exact if_pos left

/-- The failure of the last attempt stalls the unwind (R67). -/
theorem restoreResult_stalls (writes : s.restore.state = .WRITING) (last : 3 ≤ s.restore.attempt) (cause : Cause) :
    restoreResult (.FAILED cause) s = enterStalled cause s := by
  rw [restoreResult, if_neg (not_not.2 writes)]
  exact if_neg (Nat.not_lt.2 last)

/-! The commands of a stall. -/

/-- The state that a recorded origin names (R30, R69). -/
theorem stateOfOrigin_some (origin : StallOrigin) :
    stateOfOrigin (some origin) = if origin = .RECOVERY then .RECOVERY else .ROLLBACK := by
  cases origin <;> rfl

/-- RETRY_RESTORE in a stall resumes the state left, at the newest slot (R69). -/
theorem actRetryRestore_resumes {origin : StallOrigin} (stalled : s.ctl.state = .STALLED) (left : s.ctl.stallOrigin = some origin) :
    actRetryRestore s =
      (arbitrate (selectSlot (reevaluate
        { s with ctl := { s.ctl with state := if origin = .RECOVERY then .RECOVERY else .ROLLBACK } })), answerOf .DONE []) := by
  rw [actRetryRestore, if_pos stalled, left, stateOfOrigin_some]
  rfl

/-- DISCARD_JOURNAL in a stall asks for the discard write that nobody has asked for (R70). -/
theorem actDiscardJournal_asks (stalled : s.ctl.state = .STALLED) (unasked : .DISCARD ∉ s.writes) :
    actDiscardJournal s = ({ s with writes := s.writes ++ [.DISCARD] }, answerOf .DONE []) := by
  rw [actDiscardJournal, if_pos stalled, if_neg fun asked => unasked (List.contains_iff_mem.1 asked)]
  rfl

end Sys2Proof.Machine

open Sys2Proof Sys2Proof.Machine

/-- Settles O31: the result goes to the restore engine, by its cursor and the attempts left (R59, R60, R67). -/
theorem restoreWriteEnds : Obligations.RestoreWriteEnds := by
  intro s c a r port powered ends grant writes
  have row : exec c s = .next (arbitrate (restoreResult r { s with port := port })) := exec_accessEnds powered ends grant
  rw [row]
  refine ⟨?_, ?_, ?_, ?_⟩
  · rintro data rfl more
    rw [restoreResult_nextWord (s := { s with port := port }) writes more]
  · rintro data rfl last
    rw [restoreResult_lastWord (s := { s with port := port }) writes last]
  · rintro cause rfl left
    rw [restoreResult_tryAgain (s := { s with port := port }) writes left]
  · rintro cause rfl last
    rw [restoreResult_stalls (s := { s with port := port }) writes last, enterStalled_eq, stallOriginOf_eq]
    rfl

/-- Settles O50: each command at its take point, in STALLED and elsewhere. -/
theorem stallCommands : Obligations.StallCommands := by
  refine fun s => ⟨fun ready => ⟨fun other => ?_, fun origin stalled left => ?_⟩, fun ready => ⟨fun other => ?_, fun stalled unasked => ?_⟩⟩
  · exact exec_reads rfl ready (if_neg other)
  · have row : exec .retryRestore s = .next (atTakePoint .retryRestore actRetryRestore s) := rfl
    rw [row, atTakePoint_ready ready, actRetryRestore_resumes stalled left]
    rfl
  · exact exec_reads rfl ready (if_neg other)
  · have row : exec .discardJournal s = .next (atTakePoint .discardJournal actDiscardJournal s) := rfl
    rw [row, atTakePoint_ready ready, actDiscardJournal_asks stalled unasked]
    rfl

end

section
/-! SUPPORT. The evaluation of a request check by check, and what becomes of a held request (O26). -/

namespace Sys2Proof.Machine

variable {s t : State} {job : HostJob} {region : Option RegionNo} {i : RegionNo} {data : Lanes} {deadline : Option Nat}

/-! Check 4. -/

theorem evaluateLookedUp_protects (readOnly : (s.active.get i).kind = .READONLY) :
    evaluateLookedUp s .WRITE (some i) = .REFUSE .PROTECT (some i) := by
  simp [evaluateLookedUp, readOnly]

theorem evaluateLookedUp_tripped (writable : (s.active.get i).kind ≠ .READONLY) (tripped : (s.meters.get i).trip = .TRIPPED) :
    evaluateLookedUp s .WRITE (some i) = .REFUSE .TRIPPED (some i) := by
  simp [evaluateLookedUp, writable, tripped]

/-- A WRITE that check 4 lets pass meets check 5 (R81, R82). -/
theorem evaluateLookedUp_holds (passes : PassesCheck4 s region) (held : isHeldAt s .WRITE = true) :
    evaluateLookedUp s .WRITE region = .HOLD region := by
  cases region with
  | none => simp [evaluateLookedUp, held]
  | some i =>
    obtain ⟨writable, clear⟩ := passes i rfl
    simp [evaluateLookedUp, writable, clear, held]

/-- A WRITE that checks 4 and 5 let pass enters the queue where its region is not GUARDED (R85). -/
theorem evaluateLookedUp_posts (passes : PassesCheck4 s region) (goes : ¬ isHeldAt s .WRITE = true)
    (unguarded : ∀ i, region = some i → (s.active.get i).kind ≠ .GUARDED) : evaluateLookedUp s .WRITE region = .POST region := by
  cases region with
  | none => simp [evaluateLookedUp, goes]
  | some i =>
    obtain ⟨writable, clear⟩ := passes i rfl
    simp [evaluateLookedUp, writable, clear, goes, unguarded i rfl]

/-- A WRITE that checks 4 and 5 let pass asks the journal where its region is GUARDED (R85). -/
theorem evaluateLookedUp_asks (passes : PassesCheck4 s (some i)) (goes : ¬ isHeldAt s .WRITE = true)
    (guarded : (s.active.get i).kind = .GUARDED) : evaluateLookedUp s .WRITE (some i) = .GUARD i := by
  obtain ⟨-, clear⟩ := passes i rfl
  simp [evaluateLookedUp, clear, goes, guarded]

/-- A READ is no matter of check 4 (R81, R82, R83). -/
theorem evaluateLookedUp_read (s : State) (region : Option RegionNo) :
    evaluateLookedUp s .READ region = if isHeldAt s .READ then .HOLD region else .READ region := by
  simp [evaluateLookedUp]

/-! Check 5. -/

/-- A READ is held in ROLLBACK alone (R82). -/
theorem isHeldAt_read (s : State) : isHeldAt s .READ = true ↔ s.ctl.state = .ROLLBACK := by
  unfold isHeldAt
  cases s.ctl.state <;> simp

/-- Of the states that check 1 lets pass, a WRITE goes on in OPEN alone, with room in the queue (R82). -/
theorem isHeldAt_write (state : s.ctl.state = .OPEN ∨ s.ctl.state = .DRAINING ∨ s.ctl.state = .ROLLBACK)
    (full : s.ctl.state = .OPEN → 8 ≤ s.queue.length) : isHeldAt s .WRITE = true := by
  unfold isHeldAt
  rcases state with e | e | e
  · rw [e]
    exact decide_eq_true (full e)
  · rw [e]
  · rw [e]

theorem isHeldAt_write_room (state : s.ctl.state = .OPEN) (room : s.queue.length < 8) : ¬ isHeldAt s .WRITE = true := by
  simpa [isHeldAt, state] using room

/-! Checks 1 and 2, and the evaluation as a whole. -/

/-- A misaligned request is refused with the region of the lookup before (R79, R86). -/
theorem evaluate_misaligned (state : s.ctl.state = .OPEN ∨ s.ctl.state = .DRAINING ∨ s.ctl.state = .ROLLBACK)
    (misaligned : job.addr.toNat % sizeBytes job.size ≠ 0) : evaluate s job = .REFUSE .ALIGN job.region := by
  have fails : ¬ aligned job.addr job.size = true := by simpa [aligned] using misaligned
  unfold evaluate
  rcases state with e | e | e <;> rw [e] <;> exact if_neg fails

/-- A request that checks 1 and 2 let pass is looked up (R80). -/
theorem evaluate_aligned (h : PassesCheck2 s job) :
    evaluate s job = evaluateLookedUp s (opKind job.op) (governingRegion s (lineOf job.addr)) := by
  have passes : aligned job.addr job.size = true := by simp [aligned, h.aligned]
  unfold evaluate
  rcases h.state with e | e | e <;> rw [e] <;> exact if_pos passes

theorem evaluate_read (h : PassesCheck2 s job) (op : job.op = .READ) : evaluate s job =
    if isHeldAt s .READ then .HOLD (governingRegion s (lineOf job.addr)) else .READ (governingRegion s (lineOf job.addr)) := by
  rw [evaluate_aligned h, op, ← evaluateLookedUp_read]
  rfl

theorem evaluate_write (h : PassesCheck2 s job) (op : job.op = .WRITE data) :
    evaluate s job = evaluateLookedUp s .WRITE (governingRegion s (lineOf job.addr)) := by
  rw [evaluate_aligned h, op]
  rfl

/-- A held WRITE that checks 1 to 5 now let pass is looked up in OPEN, with room in the queue (R79, R82). -/
theorem HeldWritePasses.evaluated (h : HeldWritePasses s job data) :
    evaluate s job = evaluateLookedUp s .WRITE (governingRegion s (lineOf job.addr)) ∧ ¬ isHeldAt s .WRITE = true :=
  ⟨evaluate_write ⟨.inl h.state, h.aligned⟩ h.op, isHeldAt_write_room h.state h.room⟩

theorem evaluate_posts (h : HeldWritePasses s job data)
    (unguarded : ∀ i, governingRegion s (lineOf job.addr) = some i → (s.active.get i).kind ≠ .GUARDED) :
    evaluate s job = .POST (governingRegion s (lineOf job.addr)) := by
  obtain ⟨lookedUp, goes⟩ := h.evaluated
  rw [lookedUp, evaluateLookedUp_posts h.check4 goes unguarded]

theorem evaluate_asks (h : HeldWritePasses s job data) (lookup : governingRegion s (lineOf job.addr) = some i)
    (guarded : (s.active.get i).kind = .GUARDED) : evaluate s job = .GUARD i := by
  obtain ⟨lookedUp, goes⟩ := h.evaluated
  rw [lookedUp, lookup, evaluateLookedUp_asks (lookup ▸ h.check4) goes guarded]

/-! The request in progress, moved or let go. -/

/-- A request held again keeps its deadline and takes the region found (R87, R88). -/
theorem moveHost_heldAgain (held : job.stage = .HELD deadline) (region : Option RegionNo) (s : State) :
    moveHost job (.HELD deadline) region s = { s with host := some { job with region := region } } := by
  rw [moveHost, ← held]

/-- The bytes of a WRITE are the lanes it moves (R71). -/
theorem opData_write (op : job.op = .WRITE data) :
    opData job.addr job.size job.op = (data.toList.drop (job.addr.toNat % 4)).take (sizeBytes job.size) := by
  rw [op]
  rfl

/-- A held WRITE enters the queue (R91, R92). -/
theorem postWrite_held (host : s.host = some job) (op : job.op = .WRITE data) (cls : WriteClass) (region : Option RegionNo) :
    postWrite job.addr job.size (opData job.addr job.size job.op) cls region s = postedHeld job data cls region s := by
  rw [postWrite_some _ _ _ _ _ host, opData_write op]
  rfl

theorem refuseHost_held {reason : Reason} (host : s.host = some job) (plain : reason ≠ .FULL ∧ reason ≠ .HOLD_TIMEOUT)
    (region : Option RegionNo) : refuseHost reason region s = refusedHeld job reason region s :=
  refuseHost_plain region host plain.1 plain.2

/-- What the verdict on a held request makes of the state (R77 to R88). -/
theorem Reevaluated.applied (h : Reevaluated s job t) (host : s.host = some job) (held : job.stage = .HELD deadline) :
    applyVerdict job deadline s (evaluate s job) = t := by
  have refused : ∀ {reason region}, evaluate s job = .REFUSE reason region → reason ≠ .FULL ∧ reason ≠ .HOLD_TIMEOUT →
      applyVerdict job deadline s (evaluate s job) = refusedHeld job reason region s := by
    intro reason region verdict plain
    rw [verdict]
    exact refuseHost_held host plain region
  have heldAgain : evaluate s job = .HOLD (governingRegion s (lineOf job.addr)) → applyVerdict job deadline s (evaluate s job) =
      { s with host := some { job with region := governingRegion s (lineOf job.addr) } } := by
    intro verdict
    rw [verdict]
    exact moveHost_heldAgain held _ s
  cases h with
  | off state =>
    have verdict : evaluate s job = .UNLOGGED := by rw [evaluate, state]
    rw [verdict]
    exact answerHost_some _ _ _ host
  | recovering state => exact refused (by rw [evaluate, state]) (by decide)
  | stalled state => exact refused (by rw [evaluate, state]) (by decide)
  | misaligned state misaligned => exact refused (evaluate_misaligned state misaligned) (by decide)
  | protect i data passes op lookup readOnly =>
    exact refused (by rw [evaluate_write passes op, lookup, evaluateLookedUp_protects readOnly]) (by decide)
  | tripped i data passes op lookup writable tripped =>
    exact refused (by rw [evaluate_write passes op, lookup, evaluateLookedUp_tripped writable tripped]) (by decide)
  | readHeld passes op state => exact heldAgain (by rw [evaluate_read passes op, if_pos ((isHeldAt_read s).2 state)])
  | writeHeld data passes op check4 full =>
    exact heldAgain (by rw [evaluate_write passes op, evaluateLookedUp_holds check4 (isHeldAt_write passes.state full)])
  | readGoes passes op state =>
    rw [evaluate_read passes op, if_neg (mt (isHeldAt_read s).1 state)]
    rfl
  | posted data passes unguarded =>
    rw [evaluate_posts passes unguarded]
    exact postWrite_held host passes.op _ _
  | proceeds i data passes lookup guarded found =>
    obtain ⟨k, found⟩ := Option.isSome_iff_exists.1 found
    rw [evaluate_asks passes lookup guarded]
    exact (guardHost_found i found).trans (postWrite_held host passes.op _ _)
  | full i data passes lookup guarded missing full =>
    rw [evaluate_asks passes lookup guarded]
    exact (guardHost_full i missing full).trans (refuseHost_some .FULL (some i) host)
  | captures i data k passes lookup guarded missing room free =>
    rw [evaluate_asks passes lookup guarded]
    refine (guardHost_captures i missing room).trans ?_
    rw [startCapture, free, opData_write passes.op]
    rfl

/-- A held request is evaluated from check 1 (R88). -/
theorem reevaluate_held (host : s.host = some job) (held : job.stage = .HELD deadline) :
    reevaluate s = applyVerdict job deadline s (evaluate s job) := by
  rw [reevaluate, host]
  dsimp only
  rw [held]

/-! Deadlines and hazards. -/

/-- A hold whose deadline has come is refused with HOLD_TIMEOUT (R89). -/
theorem exec_holdDeadline_due (host : s.host = some job) (due : job.stage = .HELD (some 0)) :
    exec .holdDeadline s = .next (refuseHost .HOLD_TIMEOUT job.region s) := by
  show execHoldDeadline s = _
  rw [execHoldDeadline, host]
  dsimp only
  rw [due]
  rfl

/-- The deadline finds nothing but a hold that has run out (R89, log 23). -/
theorem exec_holdDeadline_none (h : ∀ job, s.host = some job → job.stage ≠ .HELD (some 0)) : exec .holdDeadline s = .next s := by
  show execHoldDeadline s = _
  unfold execHoldDeadline
  split
  · rfl
  · next job host =>
    split
    · next due => exact absurd due (h job host)
    · rfl

/-- The end of hazard waits looks at the request in progress (R83). -/
theorem endHazard_some (host : s.host = some job) : endHazard s =
    if job.stage = .HAZARD ∧ lineQueued s (lineOf job.addr) = false then { s with host := some { job with stage := .PORT_WAIT } } else s := by
  rw [endHazard, host]
  rfl

theorem endHazard_none (h : ∀ job, s.host = some job → job.stage ≠ .HAZARD) : endHazard s = s := by
  cases host : s.host with
  | none => rw [endHazard, host]
  | some job => rw [endHazard_some host, if_neg fun waits => h job host waits.1]

end Sys2Proof.Machine

open Sys2Proof Sys2Proof.Machine

/-- Settles O26: the deadline, the verdict on a held request outcome by outcome, and the hazard wait. -/
theorem holdsAndWaits : Obligations.HoldsAndWaits := by
  refine ⟨fun s job host due => ?_, fun _ => exec_holdDeadline_none, fun s t job deadline host held outcome => ?_,
    fun _ => reevaluate_noHold, fun _ => endHazard_none, fun s job host waits => ?_⟩
  · rw [exec_holdDeadline_due host due, refuseHost_some .HOLD_TIMEOUT job.region host]
    rfl
  · rw [reevaluate_held host held, outcome.applied host held]
  · rw [endHazard_some host, lineQueued]
    cases s.queue.any (fun e => lineOf e.addr == lineOf job.addr) <;> simp [waits]

end

section
/-! SUPPORT. The window boundary: the meter records, the trips, and the rollback that they order (O48). -/

namespace Sys2Proof.Machine

variable {s : State} {i : RegionNo}

/-! One region. -/

theorem boundaryMeter_unmetered {r : Region} (h : isMetered r = false) (m : Meter) : boundaryMeter r m = m := if_pos h

/-- A region that trips starts again from nothing, TRIPPED (R118, R120). -/
theorem Trips.boundaryMeter (h : Trips s i) : boundaryMeter (s.active.get i) (s.meters.get i) =
    { count := 0, latch := (s.meters.get i).count, strikes := 0, trip := .TRIPPED } := by
  obtain ⟨metered, clear, above, last⟩ := h
  simp [Machine.boundaryMeter, metered, clear, above, last]

/-- A metered region that does not trip: the count is latched, the trip state stays, and a strike is gained above the limit alone (R118,
R119). -/
theorem boundaryMeter_untripped (ranges : RangeLaw s) (metered : isMetered (s.active.get i) = true) (h : ¬ Trips s i) :
    boundaryMeter (s.active.get i) (s.meters.get i) =
      { count := 0, latch := (s.meters.get i).count, trip := (s.meters.get i).trip
        strikes := if (s.meters.get i).trip = .CLEAR ∧ (s.meters.get i).count > (s.active.get i).writeLimit
          then (s.meters.get i).strikes + 1 else 0 } := by
  obtain ⟨-, -, -, qualify, -⟩ := ranges.active i
  obtain ⟨-, -, -, tripped⟩ := ranges.meters i
  cases trip : (s.meters.get i).trip with
  | TRIPPED =>
    obtain ⟨-, strikes⟩ := tripped trip
    simp [boundaryMeter, metered, trip, strikes]
  | CLEAR =>
    by_cases above : (s.meters.get i).count > (s.active.get i).writeLimit
    · have short : (s.meters.get i).strikes + 1 ≠ (s.active.get i).qualify := fun last => h ⟨metered, trip, above, last⟩
      simp [boundaryMeter, metered, trip, above, short]
    · have short : 0 ≠ (s.active.get i).qualify := by omega
      simp [boundaryMeter, metered, trip, above, short]

/-- The model's test for a trip is the condition of R118 and R120. -/
theorem tripsAt_iff (ranges : RangeLaw s) : tripsAt s i = true ↔ Trips s i := by
  unfold tripsAt
  by_cases h : Trips s i
  · have ⟨_, clear, _, _⟩ := h
    simp [h, clear, h.boundaryMeter]
  · cases metered : isMetered (s.active.get i) with
    | false =>
      rw [boundaryMeter_unmetered metered]
      cases trip : (s.meters.get i).trip <;> simp [h]
    | true =>
      rw [boundaryMeter_untripped ranges metered h]
      cases trip : (s.meters.get i).trip <;> simp [h]

theorem mem_trippingRegions (ranges : RangeLaw s) : i ∈ trippingRegions s ↔ Trips s i := by
  rw [trippingRegions, List.mem_filter, tripsAt_iff ranges]
  exact and_iff_right (List.mem_ofFn.2 ⟨i, rfl⟩)

/-! The boundary as a whole. -/

/-- Every region is evaluated and the next window begins, before the trips are handed on (R114, R118). -/
def windowTurned (s : State) : State :=
  { s with
    meters := tabulate (fun i => boundaryMeter (s.active.get i) (s.meters.get i))
    window := { length := windowLength s.cfg.windowCode, elapsed := 0 } }

theorem windowBoundary_eq (s : State) : windowBoundary s =
    if (trippingRegions s).any (fun i => (s.active.get i).action == .ROLLBACK)
    then orderTripRollback (if (trippingRegions s).isEmpty then windowTurned s else setEvent .TRIP (windowTurned s))
    else if (trippingRegions s).isEmpty then windowTurned s else setEvent .TRIP (windowTurned s) := rfl

/-- A boundary at which no region trips (R114). -/
theorem windowBoundary_quiet (ranges : RangeLaw s) (quiet : ∀ i, ¬ Trips s i) : windowBoundary s = windowTurned s := by
  have none : trippingRegions s = [] := List.eq_nil_iff_forall_not_mem.2 fun i h => quiet i ((mem_trippingRegions ranges).1 h)
  rw [windowBoundary_eq, none]
  rfl

/-- A trip sets TRIP, and its order reaches the controller where the region's action is ROLLBACK (R54, R120, R121). -/
theorem windowBoundary_trips (ranges : RangeLaw s) (trips : ∃ i, Trips s i) : windowBoundary s =
    if (trippingRegions s).any (fun i => (s.active.get i).action == .ROLLBACK) then orderTripRollback (setEvent .TRIP (windowTurned s))
    else setEvent .TRIP (windowTurned s) := by
  obtain ⟨i, trip⟩ := trips
  have some : ¬ (trippingRegions s).isEmpty = true := fun none =>
    List.not_mem_nil (List.isEmpty_iff.1 none ▸ (mem_trippingRegions ranges).2 trip)
  rw [windowBoundary_eq, if_neg some]

/-- A rollback is ordered exactly where a tripping region has the action ROLLBACK (R54, R121). -/
theorem rollbackOrdered_iff (ranges : RangeLaw s) : (trippingRegions s).any (fun i => (s.active.get i).action == .ROLLBACK) = true ↔
    ∃ i, Trips s i ∧ (s.active.get i).action = .ROLLBACK := by
  simp [mem_trippingRegions ranges]

theorem orderTripRollback_elsewhere (h : s.ctl.state ≠ .OPEN) : orderTripRollback s = s := if_neg h

/-- The order of a rollback in OPEN: a held request is evaluated again, and a drained epoch asks for its mark (R51, R54, R56, R57, R88). -/
theorem orderTripRollback_open (h : s.ctl.state = .OPEN) : orderTripRollback s =
    { reevaluate { s with ctl := { s.ctl with state := .ROLLBACK, cause := some .TRIP, autoTimer := none } } with
      writes := if isDrained s = true ∧ s.writes = [] ∧ s.retention.header.state ≠ .UNWINDING then [.MARK] else s.writes } := by
  have answered : HostAnswered _ (enterRollback .TRIP s) := reevaluate_closed (by simp)
  have state : (enterRollback .TRIP s).ctl.state = .ROLLBACK := congrArg Controller.state answered.ctl
  have drained : isDrained (enterRollback .TRIP s) = isDrained s := answered.drained
  have writes : (enterRollback .TRIP s).writes = s.writes := answered.writes
  have asked : ((enterRollback .TRIP s).ctl.state = .ROLLBACK ∧ isDrained (enterRollback .TRIP s) = true ∧
      (enterRollback .TRIP s).retention.header.state ≠ .UNWINDING ∧ (enterRollback .TRIP s).writes = []) ↔
      (isDrained s = true ∧ s.writes = [] ∧ s.retention.header.state ≠ .UNWINDING) := by
    rw [state, drained, writes, answered.retention]
    tauto
  rw [orderTripRollback, if_pos h, rollbackDrainCheck_eq, if_congr asked rfl rfl, writes, enterRollback_eq]

/-- The order of a rollback leaves the meter records and the window alone. -/
theorem orderTripRollback_meters (s : State) : (orderTripRollback s).meters = s.meters ∧ (orderTripRollback s).window = s.window := by
  by_cases h : s.ctl.state = .OPEN
  · rw [orderTripRollback_open h, (reevaluate_closed (by simp)).same]
    exact ⟨rfl, rfl⟩
  · rw [orderTripRollback_elsewhere h]
    exact ⟨rfl, rfl⟩

/-- Whatever the trips order, the meter records and the window are as the evaluation leaves them (R114, R118). -/
theorem windowBoundary_meters (s : State) : (windowBoundary s).meters = (windowTurned s).meters ∧
    (windowBoundary s).window = (windowTurned s).window := by
  rw [windowBoundary_eq]
  split
  · obtain ⟨meters, window⟩ := orderTripRollback_meters
      (if (trippingRegions s).isEmpty then windowTurned s else setEvent .TRIP (windowTurned s))
    rw [meters, window]
    split <;> exact ⟨rfl, rfl⟩
  · split <;> exact ⟨rfl, rfl⟩

theorem exec_windowBoundary (run : isRunning s = true) (elapsed : s.window.length * 1000 ≤ s.window.elapsed) :
    exec .windowBoundary s = .next (windowBoundary s) :=
  congrArg Host.Outcome.next (if_pos (by simpa [run, windowIsOver] using elapsed))

end Sys2Proof.Machine

open Sys2Proof Sys2Proof.Machine

/-- Settles O48: region by region, then by whether a region trips and whether its rollback is ordered. -/
theorem windowBoundary : Obligations.WindowBoundary := by
  intro s ranges run elapsed
  obtain ⟨meters, window⟩ := windowBoundary_meters s
  refine ⟨Machine.windowBoundary s, exec_windowBoundary run elapsed, fun i => ?_, window, fun quiet => ?_, fun trips unordered => ?_,
    fun ordered opened => ?_⟩
  · have record : (Machine.windowBoundary s).meters.get i = boundaryMeter (s.active.get i) (s.meters.get i) := by
      rw [meters]
      exact get_tabulate _ i
    rw [record]
    exact ⟨fun unmetered => boundaryMeter_unmetered unmetered _, Trips.boundaryMeter, boundaryMeter_untripped ranges⟩
  · rw [meters, window, windowBoundary_quiet ranges quiet]
    rfl
  · have flagged : Machine.windowBoundary s = setEvent .TRIP (windowTurned s) := by
      rw [windowBoundary_trips ranges trips]
      rcases unordered with closed | refuse
      · rw [orderTripRollback_elsewhere (s := setEvent .TRIP (windowTurned s)) closed, ite_self]
      · refine if_neg fun orders => ?_
        obtain ⟨i, trip, action⟩ := (rollbackOrdered_iff ranges).1 orders
        rw [refuse i trip] at action
        cases action
    rw [meters, window, flagged]
    rfl
  · have trips : ∃ i, Trips s i := ordered.imp fun _ => And.left
    rw [meters, window, windowBoundary_trips ranges trips, if_pos ((rollbackOrdered_iff ranges).2 ordered),
      orderTripRollback_open (s := setEvent .TRIP (windowTurned s)) opened]
    rfl

end

section
/-! SUPPORT. The answers that a command gives at the host port, and the request that it takes there (O9). -/

namespace Sys2Proof.Machine

variable {s t u : State} {c : Instr} {taken : List Tag}

/-! Answers. -/

/-- The tag of the request in progress. -/
def tagInProgress (s : State) : List Tag := (s.host.map (·.tag)).toList

/-- The request in progress and the requests taken are answered, or one of them is left in progress; each once, with its own tag (R71, R72).
-/
def Answers (s : State) (taken : List Tag) (t : State) : Prop :=
  ∃ given : List HostResponse, t.responses = s.responses ++ given ∧ given.map (·.tag) ++ tagInProgress t = tagInProgress s ++ taken

/-- A host port that gives no answer keeps its request. -/
theorem Answers.silent (responses : t.responses = s.responses) (host : tagInProgress t = tagInProgress s) : Answers s [] t :=
  ⟨[], by rw [responses, List.append_nil], by rw [host, List.append_nil]; rfl⟩

theorem tagInProgress_none (h : s.host = none) : tagInProgress s = [] := by rw [tagInProgress, h]; rfl

/-- A host port that is IDLE before and after answers nothing. -/
theorem Answers.idle (responses : t.responses = s.responses) (before : s.host = none) (after : t.host = none) : Answers s [] t :=
  .silent responses (by rw [tagInProgress_none before, tagInProgress_none after])

theorem Answers.trans (h : Answers s taken t) (k : Answers t [] u) : Answers s taken u := by
  obtain ⟨given, responses, tags⟩ := h
  obtain ⟨more, responses', tags'⟩ := k
  refine ⟨given ++ more, by rw [responses', responses, List.append_assoc], ?_⟩
  rw [List.map_append, List.append_assoc, tags', List.append_nil, tags]

/-- Work inside the running part answers its request at most once, and takes none. -/
theorem Internal.answered (h : Internal s t) : Answers s [] t := by
  obtain ⟨given, responses⟩ := h.responses
  refine ⟨given, responses, ?_⟩
  have tags : (t.responses.map (·.tag)) ++ tagInProgress t = s.responses.map (·.tag) ++ tagInProgress s := h.answers
  rw [responses, List.map_append, List.append_assoc] at tags
  rw [List.append_cancel_left tags, List.append_nil]

/-! The request taken. -/

/-- The tag of the request that a command takes at the host port (R72, R73, R158). -/
def takenBy (c : Instr) (s : State) : List Tag := (requestTaken { s with pending := [c] }).toList

theorem requestTaken_front {rest : List Instr} (front : s.pending = c :: rest) :
    (requestTaken s).toList = takenBy c { s with pending := rest } := by
  unfold takenBy requestTaken
  rw [front]
  cases c <;> rfl

theorem takenBy_other (h : isRequest c = false) (s : State) : takenBy c s = [] := by
  cases c <;> first | rfl | cases h

theorem takenBy_refused (op : HostOp) (addr : Addr) (size : Size) (tag : Tag)
    (h : s.supply = .BACKUP ∨ (isRunning s = true ∧ s.host.isSome = true)) : takenBy (.hostRequest op addr size tag) s = [] :=
  congrArg Option.toList (if_pos h)

theorem takenBy_taken (op : HostOp) (addr : Addr) (size : Size) (tag : Tag)
    (h : ¬ (s.supply = .BACKUP ∨ (isRunning s = true ∧ s.host.isSome = true))) : takenBy (.hostRequest op addr size tag) s = [tag] :=
  congrArg Option.toList (if_neg h)

/-! Stops and restarts. -/

/-- A stop answers the request in progress (R21, R157, R159). -/
theorem stoppedBy_answers (store : Retention) (reason : Reason) (s : State) : Answers s [] (stoppedBy store reason s) := by
  refine ⟨_, rfl, ?_⟩
  unfold tagInProgress
  cases s.host <;> rfl

/-- A stop, with the part no longer running, answers the request in progress. -/
theorem stopPart_answers (n : Nat) (stopped : isRunning s = false) : Answers s [] (stopPart n s) := by
  rw [stopPart_eq n stopped]
  exact stoppedBy_answers _ _ s

theorem enterFailing_answers (n : Nat) (s : State) : Answers s [] (enterFailing n s) :=
  stopPart_answers (s := { s with supply := .FAILING, settle := .STOPPED }) n rfl

theorem enterFailing_host (n : Nat) (s : State) : (enterFailing n s).host = none := by
  rw [enterFailing, stopPart_eq n rfl]
  rfl

/-- The entry to BACKUP gives no answer, and loses every request. -/
theorem enterBackup_host (low : Bool) (s : State) : (enterBackup low s).responses = s.responses ∧ (enterBackup low s).host = none := by
  cases low <;> exact ⟨rfl, rfl⟩

theorem enterBackup_answers (low : Bool) (idle : s.host = none) : Answers s [] (enterBackup low s) :=
  .idle (enterBackup_host low s).1 idle (enterBackup_host low s).2

/-- The rows of the supply and of RST# answer the request in progress where they stop a running part; a stopped part has none (R157, R159,
R161). -/
theorem answers_supplyRow (law : SupplyLaw s) (hc : isSupplyRow c = true) (e : exec c s = .next t) : Answers s [] t := by
  have idle : s.supply ≠ .RUN → s.host = none := fun off => (law.stopped (isRunning_supply off)).host
  have still : Answers s [] s := .silent rfl rfl
  cases c <;> first | exact absurd hc Bool.noConfusion | cases e
  case vddFail =>
    split
    · exact enterFailing_answers _ (useFree s)
    · exact enterFailing_answers _ (useFree s)
    · exact still
    · exact still
  case vddSwitchOver low =>
    have switched : ∀ n, Answers s [] (enterBackup low (enterFailing n (useFree s))) := fun n =>
      (enterFailing_answers n (useFree s)).trans (enterBackup_answers low (enterFailing_host n _))
    split
    · exact switched _
    · exact switched _
    · next failing => exact enterBackup_answers low (idle (by rw [failing]; simp))
    · exact still
  case vddGood => split <;> exact .silent rfl rfl
  case settleTimerExpiry =>
    split
    · next due =>
      have settling : s.supply = .SETTLING := by simpa using (Bool.and_eq_true_iff.1 due).1
      unfold settleEnds
      split
      · exact .silent rfl rfl
      · exact .idle rfl (idle (by rw [settling]; simp)) rfl
    · exact still
  case vbkLow => split <;> exact .silent rfl rfl
  case firstPower =>
    exact (enterFailing_answers 0 s).trans (.idle rfl (enterFailing_host 0 s) rfl)
  case rstAssert =>
    split
    · exact stopPart_answers (s := { useFree s with rst := .ASSERTED, resetInForce := true }) _ (by simp [isRunning])
    · exact still
  case rstRelease =>
    split
    · exact still
    · exact .silent rfl rfl
    · exact .silent rfl rfl
    · exact .silent rfl rfl
    · next asserted =>
      have reset : s.host = none := (law.stopped (by simp [isRunning, law.asserted asserted])).host
      unfold releaseReset
      split <;> exact .idle rfl reset (by first | rfl | exact reset)
  case rstFallingEdge => split <;> exact .silent rfl rfl

/-! Every step. -/

/-- The plain update with which a command begins: a request taken by a stopped part is answered, one taken by a running part is in progress,
and nothing else at the host port moves but at a stop (R72, R73). -/
theorem Base.answers (law : SupplyLaw s) (base : Base s c t) : Answers s (takenBy c s) t := by
  have still : ∀ {u : State}, isRequest c = false → u.responses = s.responses → tagInProgress u = tagInProgress s →
      Answers s (takenBy c s) u := fun other responses host => takenBy_other other s ▸ .silent responses host
  cases base with
  | same _ kept =>
    cases request : isRequest c with
    | false => exact still request rfl rfl
    | true =>
      cases c <;> cases request
      rw [takenBy_refused _ _ _ _ (kept rfl)]
      exact .silent rfl rfl
  | answered op addr size tag r stopped powered own =>
    rw [takenBy_taken _ _ _ _ (by simp [powered, stopped])]
    have host : s.host = none := (law.stopped stopped).host
    exact ⟨[r], rfl, by simp [tagInProgress, host, own]⟩
  | arrived op addr size tag job run idle own =>
    have powered : s.supply ≠ .BACKUP := fun off => by simp [isRunning, off] at run
    rw [takenBy_taken _ _ _ _ (by simp [powered, idle])]
    exact ⟨[], (List.append_nil _).symm, by simp [tagInProgress, idle, own]⟩
  | mark _ m row => exact still (by rcases row with rfl | rfl | rfl <;> rfl) rfl rfl
  | window => exact still rfl rfl rfl
  | write w => exact still (by cases w <;> rfl) rfl rfl
  | dropped _ _ other => exact still other rfl rfl
  | sealing => exact still rfl rfl rfl
  | restarted w => exact still (by cases w <;> rfl) rfl rfl
  | supply _ _ e row =>
    rw [takenBy_other (by cases c <;> first | rfl | cases row)]
    exact answers_supplyRow law row e
  | link _ l _ other => exact still other rfl rfl
  | setting _ i l setting row =>
    have kept := (settingTaken setting s).same
    have responses : (linkAct i s).1.responses = s.responses := by rw [kept]
    have host : tagInProgress (linkAct i s).1 = tagInProgress s := by rw [kept]; rfl
    refine still ?_ responses host
    rcases row with rfl | ⟨mdi, rfl⟩
    · cases c <;> first | rfl | cases setting
    · rfl

/-- Every command answers the requests it ends, and no other. -/
theorem answers_exec (law : SupplyLaw s) (e : exec c s = .next t) : Answers s (takenBy c s) t := by
  obtain ⟨b, t', e', base, work⟩ := exec_shape c s
  obtain rfl : t' = t := by rw [e] at e'; cases e'; rfl
  exact (base.answers law).trans work.answered

/-- One microsecond ends no request: a hold's deadline alone moves (R87). -/
theorem answers_idleStep (s : State) : Answers s [] (idleStep s) := by
  have tag : ∀ job, (ageHold job).tag = job.tag := by
    intro job
    unfold ageHold
    split <;> rfl
  refine .silent rfl ?_
  show ((s.host.map ageHold).map (·.tag)).toList = _
  rw [Option.map_map]
  exact congrArg (fun f => (s.host.map f).toList) (funext tag)

end Sys2Proof.Machine

open Sys2Proof Sys2Proof.Machine

/-- Settles O9: a command is a plain update, which takes at most one request, and work that answers a request once; a stop answers the one
in progress, and a stopped part has none. -/
theorem oneAnswerPerRequest : Obligations.OneAnswerPerRequest := by
  intro s t law h
  unfold step at h
  split at h
  · next idle =>
    cases h
    have untaken : requestTaken s = none := by rw [requestTaken, idle]
    rw [untaken]
    exact answers_idleStep s
  · next c rest front =>
    rw [requestTaken_front front]
    exact answers_exec (s := { s with pending := rest }) (law.withPending rest) h

end

section
/-! SUPPORT. The region lookup (O24), and the port's choice of a tag (O33). -/

namespace Sys2Proof.Machine

variable {s : State} {line : Line} {i : RegionNo}

/-! The region lookup. -/

/-- The line of an address is the address divided by 32 (section 0.6.2). -/
theorem lineOf_toNat (addr : Addr) : (lineOf addr).toNat = addr.toNat / 32 := by
  have small : addr.toNat / 2 ^ 5 < 2 ^ 19 := by omega
  rw [lineOf, BitVec.extractLsb'_toNat, Nat.shiftRight_eq_div_pow, Nat.mod_eq_of_lt small]
  rfl

theorem regionCovers_iff : regionCovers line (s.active.get i) = true ↔ CoversLine s line i := by
  simp [regionCovers, CoversLine, and_assoc]

theorem regionOfNat_eq_some {n : Nat} : regionOfNat n = some i ↔ n = i.val := by
  unfold regionOfNat
  split
  · exact Option.some_inj.trans Fin.ext_iff
  · next large => exact ⟨nofun, fun e => absurd (e ▸ i.isLt) large⟩

/-- The lookup answers with the first number in the active table whose entry covers the line. -/
theorem governingRegion_eq_some : governingRegion s line = some i ↔
    s.active.toList.findIdx? (regionCovers line) = some i.val := by
  rw [governingRegion, Option.bind_eq_some_iff]
  simp only [regionOfNat_eq_some]
  exact ⟨fun ⟨_, found, e⟩ => e ▸ found, fun found => ⟨_, found, rfl⟩⟩

/-- The entry at a number of the active table. -/
theorem active_getElem (s : State) {n : Nat} (h : n < s.active.toList.length) :
    s.active.toList[n] = s.active.get ⟨n, by simpa using h⟩ := by
  simp [Vector.get_eq_getElem]

theorem governingRegion_some_iff : governingRegion s line = some i ↔ CoversLine s line i ∧ ∀ j, j < i → ¬ CoversLine s line j := by
  rw [governingRegion_eq_some, List.findIdx?_eq_some_iff_getElem]
  simp only [active_getElem, regionCovers_iff]
  constructor
  · rintro ⟨_, covers, lowest⟩
    exact ⟨covers, fun j lower => lowest j.val lower⟩
  · rintro ⟨covers, lowest⟩
    exact ⟨by simp, covers, fun j lower => lowest ⟨j, by omega⟩ lower⟩

/-- Where some entry covers the line, one of them has the lowest number. -/
theorem exists_governingRegion (covers : CoversLine s line i) : ∃ k, governingRegion s line = some k := by
  obtain ⟨k, least⟩ := WellFounded.has_min (wellFounded_lt (α := RegionNo)) { j | CoversLine s line j } ⟨i, covers⟩
  exact ⟨k, governingRegion_some_iff.2 ⟨least.1, fun j lower other => least.2 j other lower⟩⟩

theorem governingRegion_none_iff : governingRegion s line = none ↔ ∀ i, ¬ CoversLine s line i := by
  constructor
  · intro none i covers
    obtain ⟨k, found⟩ := exists_governingRegion covers
    rw [none] at found
    cases found
  · intro uncovered
    cases found : governingRegion s line with
    | none => rfl
    | some i => exact absurd (governingRegion_some_iff.1 found).1 (uncovered i)

/-! The port's choice of a tag. -/

/-- The tags in turn: the one after the first is the first one on (R74). -/
theorem tag_succ (tag : Tag) (n : Nat) : tag + BitVec.ofNat 4 (n + 1) = tag + 1 + BitVec.ofNat 4 n := by
  rw [BitVec.ofNat_add, BitVec.add_assoc, BitVec.add_comm 1]
  rfl

/-- Of n tags in turn the port takes the first that is not owed (R74). -/
theorem firstTag_eq_some (owed : Vector Bool 16) (n : Nat) (first tag : Tag) : firstTag owed n first = some tag ↔
    ∃ k < n, tag = first + BitVec.ofNat 4 k ∧ owed.get tag.toFin = false ∧
      ∀ m < k, owed.get (first + BitVec.ofNat 4 m).toFin = true := by
  induction n generalizing first with
  | zero => exact ⟨nofun, fun ⟨_, h, _⟩ => absurd h (Nat.not_lt_zero _)⟩
  | succ n ih =>
    have start : first + BitVec.ofNat 4 0 = first := by simp
    cases here : owed.get first.toFin with
    | false =>
      rw [firstTag, if_neg (by rw [here]; simp)]
      constructor
      · rintro ⟨⟩
        exact ⟨0, Nat.succ_pos n, start.symm, here, nofun⟩
      · rintro ⟨k, -, e, -, before⟩
        cases k with
        | zero => rw [e, start]
        | succ k =>
          have taken := before 0 (Nat.succ_pos k)
          rw [start, here] at taken
          cases taken
    | true =>
      rw [firstTag, if_pos here, ih]
      constructor
      · rintro ⟨k, small, e, free, before⟩
        refine ⟨k + 1, Nat.succ_lt_succ small, by rw [tag_succ, e], free, fun m lower => ?_⟩
        cases m with
        | zero => rw [start, here]
        | succ m => rw [tag_succ, before m (Nat.lt_of_succ_lt_succ lower)]
      · rintro ⟨k, small, e, free, before⟩
        cases k with
        | zero =>
          rw [e, start, here] at free
          cases free
        | succ k =>
          refine ⟨k, Nat.lt_of_succ_lt_succ small, by rw [e, tag_succ], free, fun m lower => ?_⟩
          rw [← tag_succ, before (m + 1) (Nat.succ_lt_succ lower)]

theorem firstTag_eq_none (owed : Vector Bool 16) (first : Tag) :
    firstTag owed 16 first = none ↔ ∀ tag : Tag, owed.get tag.toFin = true := by
  refine ⟨fun none tag => ?_, fun all => firstTag_none all 16 first⟩
  by_contra free
  obtain ⟨tag, found⟩ := firstTag_some first ⟨tag, by simpa using free⟩
  rw [none] at found
  cases found

end Sys2Proof.Machine

open Sys2Proof Sys2Proof.Machine

/-- Settles O24: the lookup is a search from number 0 up, and an entry passes it exactly when it covers the line. -/
theorem lowestCoveringRegionGoverns : Obligations.LowestCoveringRegionGoverns :=
  ⟨lineOf_toNat, fun _ _ => ⟨fun _ => governingRegion_some_iff, governingRegion_none_iff⟩⟩

/-- Settles O33, by induction on the tags left to look at. -/
theorem tagIsTheFirstNotOwed : Obligations.TagIsTheFirstNotOwed :=
  fun owed next => ⟨fun tag => firstTag_eq_some owed 16 next tag, firstTag_eq_none owed next⟩

end

section
/-! SUPPORT. A request at the idle host port, by the verdict on it (O18, O19, O20, O21, O23), the meter count (O21), responses and limits
without their access (O27). -/

namespace Sys2Proof.Machine

variable {s : State} {op : HostOp} {addr : Addr} {size : Size} {tag : Tag} {region : Option RegionNo} {i : RegionNo} {data : Lanes}

/-! The verdict on a request that arrives. -/

/-- The request that an arrival makes, before its first evaluation (R72, R87). -/
def arriving (op : HostOp) (addr : Addr) (size : Size) (tag : Tag) (s : State) : HostJob :=
  { op := op, addr := addr, size := size, tag := tag, stage := .HELD (holdLimit s.cfg.holdCode), region := none }

/-- A request at the idle host port is evaluated at once, and the verdict takes effect (R72, R77). -/
theorem exec_hostRequest_verdict {verdict : Verdict} (run : isRunning s = true) (idle : s.host = none)
    (h : evaluate s (arriving op addr size tag s) = verdict) : exec (.hostRequest op addr size tag) s =
      .next (arbitrate (applyVerdict (arriving op addr size tag s) (holdLimit s.cfg.holdCode)
        { s with host := some (arriving op addr size tag s) } verdict)) := by
  rw [exec_hostRequest run idle, ← h]
  rfl

/-- A check refuses the request: ERR at once, and the refusal to the report unit (R86). -/
theorem exec_hostRequest_refused {reason : Reason} (run : isRunning s = true) (idle : s.host = none)
    (h : evaluate s (arriving op addr size tag s) = .REFUSE reason region) (plain : reason ≠ .FULL ∧ reason ≠ .HOLD_TIMEOUT) :
    exec (.hostRequest op addr size tag) s = .next (refusedAtOnce op addr size tag reason region s) := by
  rw [exec_hostRequest_verdict run idle h, applyVerdict, refuseHost_plain region rfl plain.1 plain.2, refusedAtOnce, ← idle]
  rfl

/-- Check 5 holds the request, with its region (R82, R87). -/
theorem exec_hostRequest_held (run : isRunning s = true) (idle : s.host = none)
    (h : evaluate s (arriving op addr size tag s) = .HOLD region) : exec (.hostRequest op addr size tag) s = .next (arbitrate
      { s with host := some { op := op, addr := addr, size := size, tag := tag, stage := .HELD (holdLimit s.cfg.holdCode)
                              region := region } }) :=
  exec_hostRequest_verdict run idle h

theorem PassesCheck1.check2 (h : PassesCheck1 s) (job : HostJob) (aligned : job.addr.toNat % sizeBytes job.size = 0) :
    PassesCheck2 s job := ⟨h.state, aligned⟩

/-- Each branch of checks 4 to 6 gives a verdict other than ALIGN (R81 to R85). -/
theorem evaluateLookedUp_ne_align (s : State) (kind : RequestKind) (found region : Option RegionNo) :
    evaluateLookedUp s kind found ≠ .REFUSE .ALIGN region := by
  unfold evaluateLookedUp
  dsimp only
  repeat' split
  all_goals simp

/-- Checks 1 to 5 let the write pass, whatever hold it would begin (R78 to R82). -/
theorem WritePasses.arrives (h : WritePasses s addr size region) (data : Lanes) (tag : Tag) :
    HeldWritePasses s (arriving (.WRITE data) addr size tag s) data where
  op := rfl
  state := h.state
  room := h.room
  aligned := h.aligned
  check4 := by
    show PassesCheck4 s (governingRegion s (lineOf addr))
    rw [h.lookup]
    exact h.check4

/-! The sizes. -/

theorem mod_sizeBytes_one (n : Nat) : n % sizeBytes .one = 0 := Nat.mod_one n
theorem mod_sizeBytes_two (n : Nat) : n % sizeBytes .two = 0 ↔ 2 ∣ n := (Nat.dvd_iff_mod_eq_zero ..).symm
theorem mod_sizeBytes_four (n : Nat) : n % sizeBytes .four = 0 ↔ 4 ∣ n := (Nat.dvd_iff_mod_eq_zero ..).symm

/-! The meter count. -/

theorem meterCount_unmetered (h : isMetered (s.active.get i) = false) (size : Size) : meterCount (some i) size s = s := by
  simp [meterCount, h]

/-- A write to a metered region raises its count, up to the ceiling (R117). -/
theorem meterCount_metered (h : isMetered (s.active.get i) = true) (size : Size) : meterCount (some i) size s =
    putMeter i { s.meters.get i with count := min ((s.meters.get i).count + sizeBytes size) 16777215 } s := by
  simp [meterCount, h, countCeiling]

/-! Responses and limits without their access. -/

/-- In BACKUP the port is unpowered (R158). -/
theorem exec_memoryResponse_backup (off : s.supply = .BACKUP) (tag : Tag) (answer : MemoryAnswer) :
    exec (.memoryResponse tag answer) s = .next s := congrArg Host.Outcome.next (if_pos off)

/-- A response that names no access in flight clears its tag's owed mark (R75). -/
theorem exec_memoryResponse_stale (powered : s.supply ≠ .BACKUP) (stale : ∀ a, s.port.inFlight = some a → a.tag ≠ tag)
    (answer : MemoryAnswer) : exec (.memoryResponse tag answer) s =
      .next { s with port := { s.port with owed := s.port.owed.set tag.toNat false tag.isLt } } := by
  have unnamed : ¬ s.port.inFlight.any (fun a => a.tag == tag) = true := by simpa [Option.any_eq_true] using stale
  exact congrArg Host.Outcome.next ((if_neg powered).trans (if_neg unnamed))

/-- The limit of an access that has ended finds nothing (R75, log 23). -/
theorem exec_memoryResponseLimit_stale (h : s.port.inFlight = none ∨ s.port.timer < 200) : exec .memoryResponseLimit s = .next s := by
  show Host.Outcome.next (takeResponseLimit s) = _
  unfold takeResponseLimit
  split
  · rfl
  · next a inFlight =>
    rcases h with idle | early
    · rw [idle] at inFlight
      cases inFlight
    · rw [if_pos (by exact early)]

end Sys2Proof.Machine

open Sys2Proof Sys2Proof.Machine

/-- Settles O17: the three conditions under which the host port does not keep a request. -/
theorem hostRequestNotKept : Obligations.HostRequestNotKept := by
  intro s op addr size tag
  have row : exec (.hostRequest op addr size tag) s = .next (if s.supply = .BACKUP then s else hostRequest op addr size tag s) := rfl
  refine ⟨fun off => ?_, fun powered stopped => ?_, fun run busy => ?_⟩
  · rw [row, if_pos off]
  · rw [row, if_neg powered, hostRequest, if_pos stopped]
    rfl
  · have powered : s.supply ≠ .BACKUP := fun off => by simp [isRunning, off] at run
    rw [row, if_neg powered, hostRequest, if_neg (by rw [run]; simp), if_pos busy]

/-- Settles O18: the verdicts of checks 1 and 4. -/
theorem hostRequestRefused : Obligations.HostRequestRefused := by
  intro s op addr size tag run idle
  refine ⟨fun state => ?_, fun state => ?_, fun i data passes aligned lookup op_eq => ?_⟩
  · exact exec_hostRequest_refused run idle (by rw [evaluate, state]; rfl) (by decide)
  · exact exec_hostRequest_refused run idle (by rw [evaluate, state]; rfl) (by decide)
  · have lookedUp : evaluate s (arriving op addr size tag s) = evaluateLookedUp s .WRITE (some i) := by
      rw [evaluate_write (passes.check2 (arriving op addr size tag s) aligned) op_eq]
      exact congrArg _ lookup
    refine ⟨fun readOnly => ?_, fun writable tripped => ?_⟩
    · exact exec_hostRequest_refused run idle (lookedUp.trans (evaluateLookedUp_protects readOnly)) (by decide)
    · exact exec_hostRequest_refused run idle (lookedUp.trans (evaluateLookedUp_tripped writable tripped)) (by decide)

/-- Settles O19: check 2 alone refuses with ALIGN. -/
theorem alignmentIsChecked : Obligations.AlignmentIsChecked := by
  intro s op addr size tag passes
  refine ⟨fun misaligned => ?_, fun aligned stage region => ?_, ?_, ?_, ?_⟩
  · exact exec_hostRequest_refused passes.running passes.idle
      (evaluate_misaligned (job := arriving op addr size tag s) passes.state misaligned) (by decide)
  · rw [evaluate_aligned (passes.check2 _ aligned)]
    exact evaluateLookedUp_ne_align _ _ _ _
  · rintro rfl
    exact mod_sizeBytes_one _
  · rintro rfl
    exact mod_sizeBytes_two _
  · rintro rfl
    exact mod_sizeBytes_four _

/-- Settles O20: the verdict of check 5 on a READ and on a WRITE, and the codes one by one. -/
theorem hostRequestHeld : Obligations.HostRequestHeld := by
  refine ⟨fun s op addr size tag passes aligned held => exec_hostRequest_held passes.running passes.idle ?_, rfl⟩
  have check2 := passes.check2 (arriving op addr size tag s) aligned
  rcases held with ⟨read, state⟩ | ⟨⟨data, write⟩, check4, full⟩
  · rw [evaluate_read check2 read, if_pos ((isHeldAt_read s).2 state)]
    rfl
  · rw [evaluate_write check2 write]
    exact evaluateLookedUp_holds check4 (isHeldAt_write passes.state full)

/-- Settles O21: the verdict is POST, and the write's entry is one update. -/
theorem hostWritePosted : Obligations.HostWritePosted := by
  refine ⟨fun s data addr size tag region passes unguarded => ?_,
    fun s size => ⟨rfl, fun i => ⟨fun unmetered => meterCount_unmetered unmetered size, fun metered => ?_⟩⟩⟩
  · have verdict : evaluate s (arriving (.WRITE data) addr size tag s) = .POST region := by
      rw [evaluate_posts (passes.arrives data tag) (fun i found => unguarded i (passes.lookup.symm.trans found))]
      exact congrArg Verdict.POST passes.lookup
    have meters : (meterCount region size { s with host := some (arriving (.WRITE data) addr size tag s) }).meters =
      (meterCount region size s).meters := meterCount_congr _ _ rfl rfl
    rw [exec_hostRequest_verdict passes.running passes.idle verdict, applyVerdict, postWrite_some _ _ _ _ _ rfl, ← meters,
      ← passes.idle]
    rfl
  · rw [meterCount_metered metered]
    exact ⟨rfl, get_set_eq .., fun j other => get_set_ne _ _ _ _ other.symm⟩

/-- Settles O23: a READ in OPEN or DRAINING is not held. -/
theorem hostReadGoes : Obligations.HostReadGoes := by
  intro s addr size tag run idle state aligned
  have going : ¬ isHeldAt s .READ = true := by
    rw [isHeldAt_read]
    rcases state with e | e <;> rw [e] <;> simp
  have check2 : PassesCheck2 s (arriving .READ addr size tag s) := ⟨state.imp_right .inl, aligned⟩
  rw [exec_hostRequest_verdict run idle (evaluate_read check2 rfl), if_neg going]
  rfl

/-- Settles O27: a stale response, an unpowered port, a stale limit. -/
theorem responseWithoutItsAccess : Obligations.ResponseWithoutItsAccess :=
  fun _ tag answer => ⟨fun powered stale => exec_memoryResponse_stale powered stale answer,
    fun off => exec_memoryResponse_backup off tag answer, exec_memoryResponseLimit_stale⟩

/-- Settles O28: the result goes to the host read (R84). -/
theorem hostReadEnds : Obligations.HostReadEnds := by
  intro s c a r port job powered ends grant host
  have row := exec_accessEnds powered ends grant
  have freed : (releasePort { s with port := port }).host = some job := host
  refine ⟨?_, ?_⟩
  · rintro data rfl
    rw [row, holderResult, hostReadResult, freed]
    exact congrArg (fun u => Host.Outcome.next (arbitrate u)) (answerHost_some _ _ _ freed)
  · rintro cause rfl
    rw [row, holderResult, hostReadResult, freed]
    dsimp only
    rw [refuseHost_plain job.region freed (by decide) (by decide)]
    rfl

end

section
/-! SUPPORT. The entry to BACKUP as one update, and the rows that lead to it (O52). -/

namespace Sys2Proof.Machine

variable {s : State}

/-- The entry to FAILING as one update, with the store as the writes begun leave it (R154, R157). -/
theorem enterFailing_eq (n : Nat) (s : State) : enterFailing n s =
    stoppedBy (storeAfter s (begunWrites s.writes n) s.retention) .POWER { s with supply := .FAILING, settle := .STOPPED } := by
  rw [enterFailing, stopPart_eq n rfl]
  rfl

/-- Of the link, BACKUP leaves the level of MCS# (R158, R168). -/
theorem idleLink_level (l : Link) : { idleLink with state := if l.state = .IDLE then .IDLE else .PASSED } =
    if l.state = .IDLE then idleLink else { idleLink with state := .PASSED } := by
  split <;> rfl

/-- With VBK at its minimum the entry to BACKUP loses the volatile state alone (R158). -/
theorem enterBackup_held (s : State) : enterBackup false s = unpowered s := by
  show ({ loseVolatile s with supply := .BACKUP, settle := .STOPPED } : State) = _
  rw [loseVolatile, dropReset_eq, dropMark_eq, idleLink_level]
  rfl

/-- With VBK below its minimum the store is lost too (R156). -/
theorem enterBackup_low (s : State) : enterBackup true s = storeLost (unpowered s) := congrArg loseStore (enterBackup_held s)

/-- In FAILING the switch-over is the entry to BACKUP (R154). -/
theorem exec_switchOver_failing (failing : s.supply = .FAILING) (low : Bool) : exec (.vddSwitchOver low) s = .next (enterBackup low s) := by
  show execVddSwitchOver low s = _
  rw [execVddSwitchOver, failing]

/-- In RUN and SETTLING the switch-over is two moves (R154, log 10). -/
theorem exec_switchOver_powered (powered : s.supply = .RUN ∨ s.supply = .SETTLING) (low : Bool) :
    exec (.vddSwitchOver low) s = .next (enterBackup low (enterFailing (writesBegun s) (useFree s))) := by
  show execVddSwitchOver low s = _
  unfold execVddSwitchOver
  rcases powered with e | e <;> rw [e]

end Sys2Proof.Machine

open Sys2Proof Sys2Proof.Machine

/-- Settles O52: the switch-over as its moves, each one update, and the store's loss where the row brings it. -/
theorem entryToBackup : Obligations.EntryToBackup := by
  refine fun s => ⟨fun powered low store made => ?_, fun failing => ?_, fun failing => ?_, ?_,
    fun off => congrArg Host.Outcome.next (if_pos off), rfl⟩
  · obtain rfl : storeAfter s (begunWrites s.writes (writesBegun s)) s.retention = store := writesMade_iff.1 made
    rw [exec_switchOver_powered powered, enterFailing_eq, exec_switchOver_failing rfl]
    rfl
  · rw [exec_switchOver_failing failing, enterBackup_held]
  · rw [exec_switchOver_failing failing, enterBackup_low]
  · have row : exec .firstPower s = .next (loseStore (enterBackup false (enterFailing 0 s))) := rfl
    rw [row, enterBackup_held, enterFailing_eq, begunWrites_zero]
    rfl

end

section
/-! SUPPORT. The checks of STAGE_REGION, and the staged table after it and after CLEAR_STAGED (O57). -/

namespace Sys2Proof.Machine

variable {s : State}

/-! The checks of an entry. -/

theorem regionKindField_code (k : RegionKind) : regionKindField (regionKindCode k) = some k := by cases k <;> rfl

theorem regionKindField_some {b : Byte} {k : RegionKind} (h : regionKindField b = some k) : b.toNat < 4 := by
  unfold regionKindField at h
  split at h
  case h_5 => cases h
  all_goals omega

theorem tripActionField_code (a : TripAction) : tripActionField (tripActionCode a) = some a := by cases a <;> rfl

theorem tripActionField_some {b : Byte} {a : TripAction} (h : tripActionField b = some a) : b.toNat < 2 := by
  unfold tripActionField at h
  split at h
  case h_3 => cases h
  all_goals omega

theorem lineField_of {x : BitVec 24} (h : x.toNat < 524288) : lineField x = some (x.setWidth 19) := if_pos h

theorem toNat_setWidth_line {x : BitVec 24} (h : x.toNat < 524288) : (x.setWidth 19).toNat = x.toNat := by
  rw [BitVec.toNat_setWidth, Nat.mod_eq_of_lt h]

/-- A line carried in three bytes keeps its number (R186). -/
theorem lineField_some {x : BitVec 24} {l : Line} (h : lineField x = some l) : x.toNat < 524288 ∧ l.toNat = x.toNat := by
  unfold lineField at h
  split at h
  · next range =>
    cases h
    exact ⟨range, toNat_setWidth_line range⟩
  · cases h

section entry

variable {kind : Byte} {base limit : BitVec 24} {metered : Byte} {writeLimit : BitVec 24} {qualify action : Byte}

/-- With every value in its range the entry is what the command carries (R106, R186). -/
theorem regionFields_of {k : RegionKind} {a : TripAction} (hk : kind = regionKindCode k) (ha : action = tripActionCode a)
    (order : base.toNat ≤ limit.toNat) (top : limit.toNat < 524288) (writes : 1 ≤ writeLimit.toNat) (low : 1 ≤ qualify.toNat)
    (high : qualify.toNat ≤ 15) : regionFields kind base limit metered writeLimit qualify action =
      some { kind := k, base := base.setWidth 19, limit := limit.setWidth 19, metered := metered != 0
             writeLimit := writeLimit.toNat, qualify := qualify.toNat, action := a } := by
  have bottom : base.toNat < 524288 := Nat.lt_of_le_of_lt order top
  subst hk ha
  rw [regionFields, regionKindField_code, lineField_of bottom, lineField_of top, tripActionField_code]
  exact if_pos ⟨by rwa [toNat_setWidth_line bottom, toNat_setWidth_line top], Nat.one_le_iff_ne_zero.1 writes, low, high⟩

/-- An entry comes of values in their ranges alone (R106, R186). -/
theorem regionFields_checked {r : Region} (h : regionFields kind base limit metered writeLimit qualify action = some r) :
    kind.toNat < 4 ∧ action.toNat < 2 ∧ base.toNat ≤ limit.toNat ∧ base.toNat < 524288 ∧ limit.toNat < 524288 ∧ writeLimit ≠ 0 ∧
      1 ≤ qualify.toNat ∧ qualify.toNat ≤ 15 := by
  unfold regionFields at h
  split at h
  · next k b l a hk hb hl ha =>
    obtain ⟨baseLow, baseLine⟩ := lineField_some hb
    obtain ⟨limitLow, limitLine⟩ := lineField_some hl
    split at h
    · next checks =>
      obtain ⟨order, nonzero, low, high⟩ := checks
      rw [baseLine, limitLine] at order
      exact ⟨regionKindField_some hk, tripActionField_some ha, order, baseLow, limitLow, fun zero => nonzero (by rw [zero]; rfl), low,
        high⟩
    · cases h
  · cases h

/-- STAGE_REGION with every value in its range (R106, R107). -/
theorem actStageRegion_stages {index : Byte} {i : RegionNo} {r : Region} (hi : index.toNat = i.val)
    (fields : regionFields kind base limit metered writeLimit qualify action = some r) :
    actStageRegion index kind base limit metered writeLimit qualify action s =
      ({ s with staged := s.staged.set i.val { entry := r, touched := true } i.isLt }, answerOf .DONE []) := by
  rw [actStageRegion, regionIndex_of hi, fields]

/-- STAGE_REGION with a value out of range (R106, R186). -/
theorem actStageRegion_invalid {index : Byte}
    (out : regionIndex index = none ∨ regionFields kind base limit metered writeLimit qualify action = none) :
    actStageRegion index kind base limit metered writeLimit qualify action s = (s, answerOf .INVALID []) := by
  unfold actStageRegion
  split
  · next hi fields =>
    rw [hi, fields] at out
    rcases out with e | e <;> cases e
  · rfl

end entry

end Sys2Proof.Machine

open Sys2Proof Sys2Proof.Machine

/-- Settles O57: the checks of R106 decide whether the entry is staged; CLEAR_STAGED writes the table entry by entry. -/
theorem stagingCommands : Obligations.StagingCommands := by
  refine ⟨fun s index kind base limit metered writeLimit qualify action ready => ⟨?_, fun out => exec_reads rfl ready ?_⟩,
    fun s ready => ⟨_, congrArg Host.Outcome.next (atTakePoint_ready ready actClearStaged), get_tabulate _⟩⟩
  · intro i k a hi hk ha order top writes low high
    have fields := regionFields_of (metered := metered) hk ha order (Nat.lt_succ_of_le top) writes low high
    refine congrArg Host.Outcome.next ((atTakePoint_ready ready _).trans ?_)
    rw [actStageRegion_stages hi fields]
    rfl
  · refine actStageRegion_invalid ?_
    rcases out with index_out | fields_out
    · exact .inl (regionIndex_none index_out)
    · refine .inr (Option.eq_none_iff_forall_ne_some.2 fun r fields => ?_)
      obtain ⟨kindLow, actionLow, order, baseLow, limitLow, nonzero, low, high⟩ := regionFields_checked fields
      bv_omega

end

section
/-! SUPPORT. The tables and the settings over every command (O11). -/

namespace Sys2Proof.Machine

variable {s t u : State}

/-! What most commands leave alone. -/

/-- Both tables, the configuration and the enables stay, and a set flag stays set. -/
structure SettingsStay (s t : State) : Prop where
  active : t.active = s.active
  staged : t.staged = s.staged
  cfg : t.cfg = s.cfg
  enables : t.events.enables = s.events.enables
  flags : ∀ k, s.events.flags.getLsbD k = true → t.events.flags.getLsbD k = true

theorem SettingsStay.refl (s : State) : SettingsStay s s := ⟨rfl, rfl, rfl, rfl, fun _ => id⟩

theorem Internal.settingsStay (h : Internal s t) : SettingsStay s t := ⟨h.active, h.staged, h.cfg, h.enables, h.flags⟩

/-- A stop releases ALERT# and leaves the flags, the enables, the tables and the configuration (R157, R159). -/
theorem settingsStay_stopPart (n : Nat) (stopped : isRunning s = false) : SettingsStay s (stopPart n s) := by
  rw [stopPart_eq n stopped]
  exact { SettingsStay.refl s with }

/-! What a command may change. -/

/-- What a command with a row of its own may change of the staged table, the configuration, the enables and the flags (R105, R107, R108,
R110, R147, R148, R179). -/
structure SettingsByRow (c : Instr) (s t : State) : Prop where
  staged : c ≠ .sealWriteEnd → c ≠ .clearStaged → (∀ n k b l m w q a, c ≠ .stageRegion n k b l m w q a) → t.staged = s.staged
  cfg : (∀ w h l n, c ≠ .setConfig w h l n) → t.cfg = s.cfg
  enables : (∀ e, c ≠ .setEnables e) → t.events.enables = s.events.enables
  flags : c ≠ .takeEvents → ∀ k, s.events.flags.getLsbD k = true → t.events.flags.getLsbD k = true

/-- What a command may change of the tables and the settings; a clock edge of the link may bring the take point of any command (R170). -/
structure SettingsByRule (c : Instr) (s t : State) : Prop where
  active : c ≠ .sealWriteEnd → t.active = s.active
  settings : (∀ mdi, c ≠ .mckRisingEdge mdi) → SettingsByRow c s t

theorem SettingsStay.byRow (h : SettingsStay s t) (c : Instr) : SettingsByRow c s t :=
  ⟨fun _ _ _ => h.staged, fun _ => h.cfg, fun _ => h.enables, fun _ => h.flags⟩

theorem SettingsStay.byRule (h : SettingsStay s t) (c : Instr) : SettingsByRule c s t := ⟨fun _ => h.active, fun _ => h.byRow c⟩

theorem SettingsByRule.of_same {c : Instr} (active : t.active = s.active) (staged : t.staged = s.staged) (cfg : t.cfg = s.cfg)
    (enables : t.events.enables = s.events.enables) (flags : t.events.flags = s.events.flags) : SettingsByRule c s t :=
  SettingsStay.byRule ⟨active, staged, cfg, enables, fun k => by rw [flags]; exact id⟩ c

/-- Internal work after a command changes nothing more of them. -/
theorem SettingsByRule.internal {c : Instr} (h : SettingsByRule c s t) (k : Internal t u) : SettingsByRule c s u where
  active other := k.active.trans (h.active other)
  settings edge :=
    have row := h.settings edge
    { staged := fun sealing clearing staging => k.staged.trans (row.staged sealing clearing staging)
      cfg := fun other => k.cfg.trans (row.cfg other)
      enables := fun other => k.enables.trans (row.enables other)
      flags := fun other i isSet => k.flags i (row.flags other i isSet) }

/-! The take points of the settings. -/

theorem SettingTaken.active (h : SettingTaken s t) : t.active = s.active := by rw [h.same]

/-- Each setting changes its own part alone (R107, R108, R124, R135, R140, R147, R148, R179). -/
theorem settingsByRow_setting {i : Instr} (hi : isSetting i = true) (s : State) : SettingsByRow i s (linkAct i s).1 := by
  have stay := (SettingsStay.refl s).byRow i
  cases i <;> first | exact absurd hi Bool.noConfusion | skip
  case stageRegion index kind base limit metered writeLimit qualify action =>
    show SettingsByRow _ s (actStageRegion index kind base limit metered writeLimit qualify action s).1
    unfold actStageRegion
    split
    · exact { stay with staged := fun _ _ other => (other _ _ _ _ _ _ _ _ rfl).elim }
    · exact stay
  case clearStaged => exact { stay with staged := fun _ other _ => absurd rfl other }
  case clearTrip index =>
    show SettingsByRow _ s (actClearTrip index s).1
    unfold actClearTrip
    split
    · exact stay
    · split <;> exact { stay with }
  case setConfig window hold level interval =>
    show SettingsByRow _ s (actSetConfig window hold level interval s).1
    unfold actSetConfig
    split
    · exact { stay with cfg := fun other => (other _ _ _ _ rfl).elim }
    · exact stay
  case setEnables enables =>
    show SettingsByRow _ s (actSetEnables enables s).1
    unfold actSetEnables
    split
    · exact { stay with enables := fun other => absurd rfl (other _) }
    · exact stay
  case takeEvents => exact { stay with flags := fun other => absurd rfl other }
  case takeRefusals n =>
    show SettingsByRow _ s (actTakeRefusals n s).1
    unfold actTakeRefusals
    split <;> exact { stay with }
  case clearFault => exact { stay with }

/-! Every command. -/

/-- The plain update with which a command begins, but for the rows of the supply and of RST#. -/
theorem settingsByRule_base {c : Instr} (k : Base s c t) (hc : isSupplyRow c = false) : SettingsByRule c s t := by
  cases k with
  | same => exact .of_same rfl rfl rfl rfl rfl
  | answered => exact .of_same rfl rfl rfl rfl rfl
  | arrived => exact .of_same rfl rfl rfl rfl rfl
  | mark => exact .of_same rfl rfl rfl rfl rfl
  | window => exact .of_same rfl rfl rfl rfl rfl
  | write => exact .of_same rfl rfl rfl rfl rfl
  | dropped => exact .of_same rfl rfl rfl rfl rfl
  | sealing =>
    exact ⟨fun other => absurd rfl other, fun _ => { (SettingsStay.refl s).byRow _ with staged := fun other => absurd rfl other }⟩
  | restarted => exact .of_same rfl rfl rfl rfl rfl
  | supply _ _ _ row => rw [row] at hc; cases hc
  | link => exact .of_same rfl rfl rfl rfl rfl
  | setting _ i l hi carried =>
    refine ⟨fun _ => (settingTaken hi s).active, fun edge => ?_⟩
    rcases carried with rfl | ⟨mdi, rfl⟩
    · exact { settingsByRow_setting hi s with }
    · exact absurd rfl (edge mdi)

/-- The rows of the supply and of RST# that neither bring the part to BACKUP nor restart it (R154, R156, R157, R159). -/
theorem settingsStay_supplyRow {c : Instr} (hc : isSupplyRow c = true) (e : exec c s = .next t) (settle : c ≠ .settleTimerExpiry)
    (release : c ≠ .rstRelease) (first : c ≠ .firstPower) (backup : ∀ low, c ≠ .vddSwitchOver low) : SettingsStay s t := by
  have stay := SettingsStay.refl s
  cases c <;> first | exact absurd hc Bool.noConfusion | cases e
  case vddFail =>
    have failing : SettingsStay s (enterFailing (writesBegun s) (useFree s)) :=
      { settingsStay_stopPart (s := { useFree s with supply := .FAILING, settle := .STOPPED }) (writesBegun s) rfl with }
    split
    · exact failing
    · exact failing
    · exact stay
    · exact stay
  case vddSwitchOver low => exact absurd rfl (backup low)
  case vddGood => split <;> exact { stay with }
  case settleTimerExpiry => exact absurd rfl settle
  case vbkLow => split <;> exact { stay with }
  case firstPower => exact absurd rfl first
  case rstAssert =>
    split
    · exact { settingsStay_stopPart (s := { useFree s with rst := .ASSERTED, resetInForce := true }) _ (by simp [isRunning]) with }
    · exact stay
  case rstRelease => exact absurd rfl release
  case rstFallingEdge => split <;> exact { stay with }

end Sys2Proof.Machine

open Sys2Proof Sys2Proof.Machine

/-- Settles O11: a row of the supply or of RST# that is not excepted leaves them all; any other command is its plain update and then
internal work, which leaves them too. -/
theorem tablesAndSettingsChangeOnlyByRule : Obligations.TablesAndSettingsChangeOnlyByRule := by
  intro c s t e settle release first backup
  have rule : SettingsByRule c s t := by
    cases supply : isSupplyRow c with
    | true => exact (settingsStay_supplyRow supply e settle release first backup).byRule c
    | false =>
      obtain ⟨b, t', e', base, work⟩ := exec_shape c s
      obtain rfl : t' = t := by rw [e] at e'; cases e'; rfl
      exact (settingsByRule_base base supply).internal work
  refine ⟨rule.active, fun edge => ?_⟩
  obtain ⟨staged, cfg, enables, flags⟩ := rule.settings edge
  exact ⟨staged, cfg, enables, flags⟩

end

section
/-! SUPPORT. The three outcomes of CLEAR_TRIP at its take point (O58). -/

namespace Sys2Proof.Machine

variable {s : State} {index : Byte} {i : RegionNo}

/-- CLEAR_TRIP of a TRIPPED region writes its meter record alone (R124). -/
theorem actClearTrip_tripped (hi : index.toNat = i.val) (tripped : (s.meters.get i).trip = .TRIPPED) :
    actClearTrip index s = (putMeter i { s.meters.get i with trip := .CLEAR, strikes := 0 } s, answerOf .DONE []) := by
  rw [actClearTrip, regionIndex_of hi]
  exact if_pos tripped

/-- CLEAR_TRIP of a CLEAR region (R124). -/
theorem actClearTrip_clear (hi : index.toNat = i.val) (clear : (s.meters.get i).trip = .CLEAR) :
    actClearTrip index s = (s, answerOf .NOT_TRIPPED []) := by
  rw [actClearTrip, regionIndex_of hi]
  exact if_neg (by simp [clear])

/-- CLEAR_TRIP of an index that names no region (R124, R186). -/
theorem actClearTrip_invalid (out : 16 ≤ index.toNat) : actClearTrip index s = (s, answerOf .INVALID []) := by
  rw [actClearTrip, regionIndex_none out]

end Sys2Proof.Machine

open Sys2Proof Sys2Proof.Machine

/-- Settles O58: the index names no region, or a region that is TRIPPED or CLEAR; only the TRIPPED one has its meter record written. -/
theorem clearTrip : Obligations.ClearTrip := by
  refine fun s index ready => ⟨fun out => ?invalid, fun i hi => ⟨fun tripped => ?tripped, fun clear => ?clear⟩⟩
  case invalid => exact exec_reads rfl ready (actClearTrip_invalid out)
  case tripped =>
    refine congrArg Host.Outcome.next ((atTakePoint_ready ready _).trans ?_)
    rw [actClearTrip_tripped hi tripped]
    rfl
  case clear => exact exec_reads rfl ready (actClearTrip_clear hi clear)

end

section
/-! SUPPORT. What the event unit and the report unit take: the flag of a cause, a refusal, a fault (O25). -/

namespace Sys2Proof.Machine

/-- Every event has its bit among the twelve flags (R143). -/
theorem eventBit_lt (e : Event) : eventBit e < 12 := by
  cases e <;> decide

/-- The set of one event holds the bit of that event and no other: it is a power of two, whose bit no shift has pushed out. -/
theorem getLsbD_eventMask (e : Event) (k : Nat) : (eventMask e).getLsbD k = true ↔ k = eventBit e := by
  show (BitVec.twoPow 12 (eventBit e)).getLsbD k = true ↔ _
  rw [BitVec.getLsbD_twoPow, decide_eq_true (eventBit_lt e), Bool.true_and, decide_eq_true_iff, eq_comm]

/-- A cause sets its flag and no other (R144). -/
theorem setEvent_flags (e : Event) (s : State) (k : Nat) :
    (setEvent e s).events.flags.getLsbD k = true ↔ s.events.flags.getLsbD k = true ∨ k = eventBit e := by
  rw [setEvent_events, BitVec.getLsbD_or, Bool.or_eq_true, getLsbD_eventMask]

section refusal

variable {s : State} (kind : RequestKind) (addr : Addr) (size : Size) (reason : Reason) (region : Option RegionNo)

/-- A refusal that finds room in the log (R132). -/
theorem logRefusal_room (room : s.report.log.length < 16) :
    logRefusal kind addr size reason region s =
      { s with report := { s.report with
          log := s.report.log ++ [{ seq := s.report.nextSeq, uptime := s.uptime.ms, kind := kind, addr := addr, size := size
                                    reason := reason, region := region, epoch := openEpoch s.retention }]
          nextSeq := s.report.nextSeq + 1 } } :=
  if_pos room

/-- A refusal that finds the log full (R133). -/
theorem logRefusal_full (full : 16 ≤ s.report.log.length) :
    logRefusal kind addr size reason region s = setEvent .LOG_DROP
      { s with report := { s.report with dropped := min (s.report.dropped + 1) 255, nextSeq := s.report.nextSeq + 1 } } :=
  if_neg (Nat.not_lt.2 full)

end refusal

section fault

variable {s : State} (source : FaultSource) (cause : Cause) (addr : Addr) (epoch : EpochNo)

/-- A fault with no record standing (R138). -/
theorem recordFault_first (empty : s.report.fault = none) :
    recordFault source cause addr epoch s = setEvent .MEMFAULT
      { s with report := { s.report with
          fault := some { source := source, cause := cause, addr := addr, epoch := epoch, uptime := s.uptime.ms, repeats := 0 } } } := by
  rw [recordFault, empty]

/-- A fault with a record standing (R138). -/
theorem recordFault_repeated {f : FaultRecord} (standing : s.report.fault = some f) :
    recordFault source cause addr epoch s = setEvent .MEMFAULT
      { s with report := { s.report with fault := some { f with repeats := min (f.repeats + 1) 255 } } } := by
  rw [recordFault, standing]

end fault

end Sys2Proof.Machine

open Sys2Proof Sys2Proof.Machine

/-- Settles O25: a cause adds the one bit of its mask to the flags and drives ALERT# anew; the refusal splits on room in the log, the fault
on whether a record stands. -/
theorem eventsAndReportsAreTaken : Obligations.EventsAndReportsAreTaken := by
  refine ⟨fun s e => ?event, fun s kind addr size reason region => ?refusal, fun s source cause addr epoch => ?fault⟩
  case event => exact ⟨alertLaw_withEvents _ _ s, rfl, setEvent_flags e s, rfl⟩
  case refusal => exact ⟨logRefusal_room kind addr size reason region, logRefusal_full kind addr size reason region⟩
  case fault => exact ⟨recordFault_first source cause addr epoch, fun _ => recordFault_repeated source cause addr epoch⟩

end

section
/-! SUPPORT. The outcomes of SET_ENABLES and TAKE_EVENTS at their take points (O59). -/

namespace Sys2Proof.Machine

variable {s : State}

/-- SET_ENABLES of the twelve flags alone replaces the whole enable set (R147). -/
theorem actSetEnables_replaces {enables : BitVec 16} (named : enables.toNat < 4096) :
    actSetEnables enables s = (withEvents s.events.flags (enables.setWidth 12) s, answerOf .DONE []) :=
  if_pos named

/-- SET_ENABLES with one of the bits 12 to 15, which name no flag (R147, R186). -/
theorem actSetEnables_invalid {enables : BitVec 16} (out : 4096 ≤ enables.toNat) :
    actSetEnables enables s = (s, answerOf .INVALID []) :=
  if_neg (Nat.not_lt.2 out)

/-- With no flag set ALERT# is released, whatever the enables (R151). -/
theorem alertDrive_noFlags (running : Bool) (enables : BitVec 12) : alertDrive running 0 enables = .RELEASED := by
  simp [alertDrive]

/-- TAKE_EVENTS answers the flags as they stand, clears them all and so releases ALERT# (R148, R151). -/
theorem actTakeEvents_eq (s : State) : actTakeEvents s =
    ({ s with events := { flags := 0, enables := s.events.enables, alert := .RELEASED } },
      answerOf .DONE (bytes16 (s.events.flags.setWidth 16))) := by
  rw [actTakeEvents, withEvents, alertDrive_noFlags]

end Sys2Proof.Machine

open Sys2Proof Sys2Proof.Machine

/-- Settles O59: SET_ENABLES by whether its bits all name a flag, where ALERT# keeps its law as after any write of the enables; TAKE_EVENTS
leaves no flag set, so ALERT# is released. -/
theorem eventCommands : Obligations.EventCommands := by
  refine ⟨fun s enables ready => ⟨fun named => ?replaced, fun out => ?invalid⟩, fun s ready => ?taken⟩
  case replaced =>
    have law : AlertLaw (withEvents s.events.flags (enables.setWidth 12) s) := alertLaw_withEvents _ _ s
    refine ⟨{ withEvents s.events.flags (enables.setWidth 12) s with link := answeredLink (.setEnables enables) [0x00] }, ?_, law, rfl⟩
    refine congrArg Host.Outcome.next ((atTakePoint_ready ready _).trans ?_)
    rw [actSetEnables_replaces named]
    rfl
  case invalid => exact exec_reads rfl ready (actSetEnables_invalid out)
  case taken =>
    refine congrArg Host.Outcome.next ((atTakePoint_ready ready _).trans ?_)
    rw [actTakeEvents_eq]
    rfl

end

section
/-! SUPPORT. The rows of the supply and of RST# by the supply state, the settle timer and the line they find (O53). -/

namespace Sys2Proof.Machine

variable {s : State}

/-! The supply. -/

/-- VDD good in FAILING or BACKUP starts the settle timer from 0 (R154). -/
theorem exec_vddGood_settles (low : s.supply = .FAILING ∨ s.supply = .BACKUP) :
    exec .vddGood s = .next { s with supply := .SETTLING, settle := .RUNNING 0 } := by
  show execVddGood s = _
  unfold execVddGood
  rcases low with e | e <;> rw [e]

/-- VDD good finds nothing to do in RUN and SETTLING (log 5). -/
theorem exec_vddGood_stays (good : s.supply = .RUN ∨ s.supply = .SETTLING) : exec .vddGood s = .next s := by
  show execVddGood s = _
  unfold execVddGood
  rcases good with e | e <;> rw [e]

/-- VDD failing finds nothing to do in FAILING and BACKUP (log 5). -/
theorem exec_vddFail_stays (low : s.supply = .FAILING ∨ s.supply = .BACKUP) : exec .vddFail s = .next s := by
  show execVddFail s = _
  unfold execVddFail
  rcases low with e | e <;> rw [e]

/-- The part in BACKUP has switched over already (log 5). -/
theorem exec_vddSwitchOver_stays (backup : s.supply = .BACKUP) (low : Bool) : exec (.vddSwitchOver low) s = .next s := by
  show execVddSwitchOver low s = _
  rw [execVddSwitchOver, backup]

/-! The settle time. -/

/-- The settle time has passed: the ground of SETTLE_TIMER_EXPIRY (R154). -/
theorem exec_settleTimerExpiry_due {n : Nat} (supply : s.supply = .SETTLING) (timer : s.settle = .RUNNING n) (due : 20000 ≤ n) :
    exec .settleTimerExpiry s = .next (settleEnds s) :=
  congrArg Host.Outcome.next (if_pos (by simpa [supply] using settleIsDue_iff.2 ⟨n, timer, due⟩))

/-- Outside SETTLING, or before the settle time, its expiry is no event (log 5, log 23). -/
theorem exec_settleTimerExpiry_stays (early : s.supply ≠ .SETTLING ∨ ∀ n, s.settle = .RUNNING n → n < 20000) :
    exec .settleTimerExpiry s = .next s := by
  refine congrArg Host.Outcome.next (if_neg fun due => ?_)
  obtain ⟨supply, passed⟩ : s.supply = .SETTLING ∧ settleIsDue s.settle = true := by simpa using due
  obtain ⟨n, timer, reached⟩ := settleIsDue_iff.1 passed
  rcases early with other | short
  · exact other supply
  · exact Nat.not_lt.2 reached (short n timer)

/-- RST# held low at the settle time puts the reset in force, a low without its timing too (R160, log 11). -/
theorem settleEnds_held (held : s.rst = .ASSERTED ∨ s.rst = .LOW) :
    settleEnds s = { s with supply := .RUN, settle := .STOPPED, rst := .ASSERTED, resetInForce := true } :=
  if_pos (by simpa [resetHeld] using held)

/-! RST#. -/

/-- A low of RST# that was not timed to 1 us was no assertion: its end leaves the line high alone (R159). -/
theorem exec_rstRelease_pulse (pulse : s.rst = .QUALIFYING ∨ s.rst = .QUALIFIED ∨ s.rst = .LOW) :
    exec .rstRelease s = .next { s with rst := .HIGH } := by
  show execRstRelease s = _
  unfold execRstRelease
  rcases pulse with e | e | e <;> rw [e]

/-- RST# high has nothing to release (log 5). -/
theorem exec_rstRelease_stays (high : s.rst = .HIGH) : exec .rstRelease s = .next s := by
  show execRstRelease s = _
  rw [execRstRelease, high]

/-- The release of an asserted RST# (R160). -/
theorem exec_rstRelease_asserted (asserted : s.rst = .ASSERTED) : exec .rstRelease s = .next (releaseReset s) := by
  show execRstRelease s = _
  rw [execRstRelease, asserted]

/-- With the supply not RUN and the settle time not passed the reset ends and no restart begins (R160, log 12). -/
theorem releaseReset_waits (early : s.supply = .FAILING ∨ s.supply = .BACKUP ∨ s.supply = .SETTLING ∧ s.settle ≠ .EXPIRED) :
    releaseReset s = { s with rst := .HIGH, resetInForce := false } := by
  unfold releaseReset
  rcases early with failing | backup | ⟨settling, unexpired⟩
  · rw [failing]
  · rw [backup]
  · rw [settling]
    cases timer : s.settle with
    | STOPPED => rfl
    | RUNNING n => rfl
    | EXPIRED => exact absurd timer unexpired

end Sys2Proof.Machine

open Sys2Proof Sys2Proof.Machine

/-- Settles O53: each row by the supply state, the settle timer and the line it finds. -/
theorem supplyAndResetMoves : Obligations.SupplyAndResetMoves := by
  intro s
  refine ⟨exec_vddGood_settles, exec_vddGood_stays, exec_vddFail_stays, exec_vddSwitchOver_stays, ?vbkLow, ?settled,
    exec_settleTimerExpiry_stays, ?falls, ?low, ?untimed, exec_rstRelease_pulse, exec_rstRelease_stays, ?released⟩
  case vbkLow => exact fun powered => congrArg Host.Outcome.next (if_neg powered)
  case settled =>
    intro n supply timer due held
    rw [exec_settleTimerExpiry_due supply timer due, settleEnds_held held]
  case falls => exact fun high => congrArg Host.Outcome.next (if_pos high)
  case low => exact fun low => congrArg Host.Outcome.next (if_neg low)
  case untimed => exact fun untimed => congrArg Host.Outcome.next (if_neg untimed)
  case released =>
    intro asserted early
    rw [exec_rstRelease_asserted asserted, releaseReset_waits early]

end

section
/-! SUPPORT. The lines of the management link by the state of the frame that they find (O15). -/

namespace Sys2Proof.Machine

variable {s : State}

/-- A fall of MCS# in IDLE begins a frame, in the state that the part's running gives it, with MDO driven by that state (R165, R168). -/
theorem exec_mcsFall_idle (idle : s.link.state = .IDLE) : exec .mcsFall s =
    .next { s with link := present { idleLink with state := if isRunning s then .RECEIVING else .PASSED } } :=
  congrArg Host.Outcome.next (if_pos idle)

/-- An edge of MCK in IDLE and in PASSED is passed over (R168). -/
theorem exec_mckRisingEdge_passed (passed : s.link.state = .IDLE ∨ s.link.state = .PASSED) (mdi : Bool) :
    exec (.mckRisingEdge mdi) s = .next s := by
  show execMckRisingEdge mdi s = _
  unfold execMckRisingEdge
  rcases passed with e | e <;> rw [e]

/-- An edge of MCK in RECEIVING samples MDI (R169). -/
theorem exec_mckRisingEdge_receiving (receiving : s.link.state = .RECEIVING) (mdi : Bool) :
    exec (.mckRisingEdge mdi) s = .next (sampleBit mdi s) := by
  show execMckRisingEdge mdi s = _
  rw [execMckRisingEdge, receiving]

/-- MDO shows a zero while a frame is received (R169). -/
theorem present_receiving {l : Link} (receiving : l.state = .RECEIVING) : present l = { l with mdo := some false } := by
  rw [present, mdoOf, receiving]

/-- A bit that leaves its byte unfinished is kept, and nothing but the link changes (R169). -/
theorem sampleBit_unfinished (receiving : s.link.state = .RECEIVING) (unfinished : s.link.bitCount < 7) (mdi : Bool) :
    sampleBit mdi s =
      { s with link := { s.link with shift := shiftIn s.link.shift mdi, bitCount := s.link.bitCount + 1, mdo := some false } } := by
  rw [sampleBit, if_neg (by omega)]
  have zeros := present_receiving (l := { s.link with shift := shiftIn s.link.shift mdi, bitCount := s.link.bitCount + 1 }) receiving
  exact congrArg (fun l : Link => { s with link := l }) zeros

/-- A rise of MCS# before the take point ends the frame with LINKERR (R172). -/
theorem exec_mcsRise_receiving (receiving : s.link.state = .RECEIVING) :
    exec .mcsRise s = .next (setEvent .LINKERR { s with link := idleLink }) := by
  show execMcsRise s = _
  rw [execMcsRise, receiving]

/-- A rise of MCS# ends a frame past its take point, or one passed over, and sets no flag (R173). -/
theorem exec_mcsRise_ends (unreceiving : s.link.state ≠ .RECEIVING) (framed : s.link.state ≠ .IDLE) :
    exec .mcsRise s = .next { s with link := idleLink } := by
  show execMcsRise s = _
  unfold execMcsRise
  cases state : s.link.state with
  | IDLE => exact absurd state framed
  | RECEIVING => exact absurd state unreceiving
  | RESPONDING => rfl
  | PASSED => rfl

/-- With MCS# high there is no frame to end (log 5). -/
theorem exec_mcsRise_idle (idle : s.link.state = .IDLE) : exec .mcsRise s = .next s := by
  show execMcsRise s = _
  rw [execMcsRise, idle]

end Sys2Proof.Machine

open Sys2Proof Sys2Proof.Machine

/-- Settles O15: each line's row by the state of the frame it finds, a fall of MCS# also by whether the part runs. -/
theorem linkLines : Obligations.LinkLines := by
  intro s
  refine ⟨?taken, ?passedOver, ?inFrame, fun mdi passed => exec_mckRisingEdge_passed passed mdi, ?kept, exec_mcsRise_receiving,
    exec_mcsRise_ends, exec_mcsRise_idle⟩
  case taken =>
    intro idle running
    rw [exec_mcsFall_idle idle, running]
    rfl
  case passedOver =>
    intro idle stopped
    rw [exec_mcsFall_idle idle, stopped]
    rfl
  case inFrame => exact fun framed => congrArg Host.Outcome.next (if_neg framed)
  case kept =>
    intro mdi receiving unfinished
    rw [exec_mckRisingEdge_receiving receiving, sampleBit_unfinished receiving unfinished]
    rfl

end
section
/-! SUPPORT. Frames and the commands they carry: the fields of a frame, the row of a link command, the length of a frame (O12, O16). -/

namespace Sys2Proof.Machine

variable {s : State} {i : Instr} {code : Byte} {params : List Byte}

/-! Fields of two and three bytes. -/

theorem field16_bytes (x : BitVec 16) : field16 (x.extractLsb' 8 8) (x.extractLsb' 0 8) = x := by
  rw [field16, BitVec.extractLsb'_append_extractLsb'_eq_extractLsb' (by rfl)]
  exact BitVec.extractLsb'_eq_self

theorem field24_bytes (x : BitVec 24) : field24 (x.extractLsb' 16 8) (x.extractLsb' 8 8) (x.extractLsb' 0 8) = x := by
  rw [field24, BitVec.extractLsb'_append_extractLsb'_eq_extractLsb' (by rfl), BitVec.extractLsb'_append_extractLsb'_eq_extractLsb' (by rfl)]
  exact BitVec.extractLsb'_eq_self

theorem bytes16_field (hi lo : Byte) : bytes16 (field16 hi lo) = [hi, lo] := by
  rw [bytes16, field16, BitVec.extractLsb'_append_eq_left, BitVec.extractLsb'_append_eq_right]

theorem bytes24_field (hi mid lo : Byte) : bytes24 (field24 hi mid lo) = [hi, mid, lo] := by
  have high : (hi ++ mid ++ lo).extractLsb' 16 8 = hi :=
    (BitVec.extractLsb'_append_eq_of_le (by decide)).trans BitVec.extractLsb'_append_eq_left
  have middle : (hi ++ mid ++ lo).extractLsb' 8 8 = mid :=
    (BitVec.extractLsb'_append_eq_of_le (by decide)).trans BitVec.extractLsb'_append_eq_right
  rw [bytes24, field24, high, middle, BitVec.extractLsb'_append_eq_right]

/-! The two directions of the round trip. -/

/-- A code with a given number is that number's byte. -/
theorem code_of_toNat {n : Nat} (value : code.toNat = n) : code = BitVec.ofNat 8 n := by
  rw [← value, BitVec.ofNat_toNat, BitVec.setWidth_eq]

/-- A code that names no command is a whole frame of its own (R174). -/
theorem parseFrame_unknown (unknown : paramCount code = none) : parseFrame code [] = some (.unknownCode code) := by
  unfold parseFrame
  split
  case h_19 => rw [unknown]; rfl
  case h_20 => exact absurd rfl ‹([] : List Byte) = [] → False›
  all_goals
    obtain rfl := code_of_toNat ‹code.toNat = _›
    cases unknown

/-- The frame of a well-formed command is read as that command (R174, R185). -/
theorem parseFrame_of_frame (wf : i.wf = true) (frame : frameBytes i = some (code :: params)) : parseFrame code params = some i := by
  cases i <;> cases frame
  case unknownCode => exact parseFrame_unknown (Option.isNone_iff_eq_none.1 wf)
  case stageRegion index kind base limit metered writeLimit qualify action =>
    show some (Instr.stageRegion ..) = _
    rw [field24_bytes, field24_bytes, field24_bytes]
  case setConfig window hold level interval =>
    show some (Instr.setConfig ..) = _
    rw [field16_bytes]
  case setEnables enables =>
    show some (Instr.setEnables _) = _
    rw [field16_bytes]
  all_goals rfl

/-- Bytes that are read as a command are the frame of that command, which is well formed (R174, R185). -/
theorem frame_of_parseFrame (read : parseFrame code params = some i) : i.wf = true ∧ frameBytes i = some (code :: params) := by
  unfold parseFrame at read
  split at read
  case h_19 =>
    split at read
    · next unknown =>
      cases read
      exact ⟨unknown, rfl⟩
    · cases read
  case h_20 => cases read
  all_goals
    obtain rfl := code_of_toNat ‹code.toNat = _›
    cases read
    refine ⟨rfl, ?_⟩
  -- STAGE_REGION, SET_CONFIG and SET_ENABLES carry fields of more than one byte.
  case h_6 index kind _ _ _ _ _ _ metered _ _ _ qualify action _ =>
    show some ([0x10, index, kind] ++ bytes24 _ ++ bytes24 _ ++ [metered] ++ bytes24 _ ++ [qualify, action]) = _
    rw [bytes24_field, bytes24_field, bytes24_field]
    rfl
  case h_10 window hold level _ _ _ =>
    show some ([0x20, window, hold, level] ++ bytes16 _) = _
    rw [bytes16_field]
    rfl
  case h_12 =>
    show some (0x22 :: bytes16 _) = _
    rw [bytes16_field]
    rfl
  all_goals rfl

/-- The frame of a well-formed command has as many parameter bytes as its code asks for (R174, R185). -/
theorem frame_length (wf : i.wf = true) (frame : frameBytes i = some (code :: params)) : (paramCount code).getD 0 = params.length := by
  cases i <;> cases frame
  case unknownCode => exact Laws.FrameLength.unknownCode _ _ _ wf rfl
  all_goals rfl

/-- A command is read of one number of parameter bytes alone, the one that its code asks for (R169, R174). -/
theorem parseFrame_length {short : List Byte} (read : parseFrame code params = some i) (other : short.length ≠ params.length) :
    parseFrame code short = none := by
  cases early : parseFrame code short with
  | none => rfl
  | some j =>
    obtain ⟨wf, frame⟩ := frame_of_parseFrame read
    obtain ⟨wf', frame'⟩ := frame_of_parseFrame early
    exact absurd ((frame_length wf' frame').symm.trans (frame_length wf frame)) other

/-! The row of a link command. -/

/-- The row of a link command is its take point; for a code that names a command UNKNOWN_CODE has none (R174, log 2, log 5). -/
theorem exec_linkRow (link : (frameBytes i).isSome = true) (s : State) :
    exec i s = .next (if i.wf then atTakePoint i (linkAct i) s else s) := by
  cases i <;> cases link
  all_goals rfl

/-- Where no frame in progress can carry the command its take point does not come (log 5). -/
theorem atTakePoint_unready (unready : ¬ FrameReady i s) (act : State → State × List Byte) : atTakePoint i act s = s := by
  unfold atTakePoint
  split
  · next code params frame => exact if_neg fun ready => unready ⟨_, frame, ready⟩
  · rfl

end Sys2Proof.Machine

open Sys2Proof Sys2Proof.Machine

/-- Settles O12: a frame is read field by field as its command, and the bytes of each command that is read are its frame. -/
theorem frameRoundTrip : Obligations.FrameRoundTrip :=
  fun _ _ _ => ⟨fun ⟨wf, frame⟩ => parseFrame_of_frame wf frame, frame_of_parseFrame⟩

/-- Settles O16: without its frame the take point does not come, and a code that names a command has none. -/
theorem linkCommandNeedsItsFrame : Obligations.LinkCommandNeedsItsFrame := by
  refine ⟨fun i s link unready => ?_, fun code s named => ?_⟩
  · rw [exec_linkRow link, atTakePoint_unready unready, ite_self]
  · have misnamed : (Instr.unknownCode code).wf = false := by rw [Instr.wf, Option.isNone_eq_false_iff, named]
    rw [exec_linkRow rfl, misnamed]
    rfl

end
section
/-! SUPPORT. A frame clocked in bit by bit: the bits of a byte, the frame after each byte, the take point at the last (O13). -/

namespace Sys2Proof.Machine

variable {s t : State} {i : Instr} {code : Byte} {params : List Byte}

/-! Runs of commands. -/

theorem runCommands_append (first second : List Instr) (s : State) :
    runCommands (first ++ second) s = (runCommands first s).bind (runCommands second) := by
  induction first generalizing s with
  | nil => rfl
  | cons c rest ih =>
    rw [List.cons_append, runCommands, runCommands]
    cases exec c s with
    | next t => exact ih t
    | fault f => rfl
    | refused r => rfl

theorem runCommands_cons {c : Instr} (taken : exec c s = .next t) (rest : List Instr) : runCommands (c :: rest) s = runCommands rest t := by
  rw [runCommands, taken]

/-- Clock edges, one for each bit on MDI. -/
def clocks (bits : List Bool) : List Instr := bits.map .mckRisingEdge

theorem clocks_append (xs ys : List Bool) : clocks (xs ++ ys) = clocks xs ++ clocks ys := List.map_append

theorem withLink_self {l : Link} (stands : s.link = l) : withLink l s = s := by
  subst stands
  rfl

/-! A byte, bit by bit. -/

/-- Bits that leave their byte unfinished are kept in their order (R169). -/
theorem clocks_unfinished (bits : List Bool) {l : Link} (receiving : l.state = .RECEIVING) (zeros : l.mdo = some false)
    (unfinished : l.bitCount + bits.length ≤ 7) (s : State) :
    runCommands (clocks bits) (withLink l s) =
      some (withLink { l with shift := bits.foldl shiftIn l.shift, bitCount := l.bitCount + bits.length } s) := by
  induction bits generalizing l with
  | nil => rfl
  | cons bit rest ih =>
    rw [List.length_cons] at unfinished
    have sampled : exec (.mckRisingEdge bit) (withLink l s) =
        .next (withLink { l with shift := shiftIn l.shift bit, bitCount := l.bitCount + 1 } s) := by
      rw [exec_mckRisingEdge_receiving receiving, sampleBit_unfinished receiving (show l.bitCount < 7 by omega), ← zeros]
      rfl
    have later := ih (l := { l with shift := shiftIn l.shift bit, bitCount := l.bitCount + 1 }) receiving zeros
      (show l.bitCount + 1 + rest.length ≤ 7 by omega)
    rw [clocks, List.map_cons, runCommands_cons sampled, ← clocks, later, List.foldl_cons, List.length_cons, Nat.add_assoc,
      Nat.add_comm 1]

/-- The eighth bit makes its byte whole (R169). -/
theorem sampleBit_eighth (seven : s.link.bitCount = 7) (mdi : Bool) : sampleBit mdi s = byteWhole (shiftIn s.link.shift mdi) s :=
  if_pos (by omega)

/-- Eight bits sampled in the order of the link are their byte (R167, R169). -/
theorem shiftIn_bits (b : Byte) : (bitsOfByte b).foldl shiftIn 0 = b := by
  revert b
  decide

/-! A frame, byte by byte. -/

/-- The link with these whole bytes of a frame received (R168, R169). -/
def bytesIn (received : List Byte) : Link :=
  present { idleLink with state := .RECEIVING, code := received.head?, params := received.tail }

/-- A byte joins those received, whatever bits of it the link held (R169). -/
theorem gainByte_bytesIn (received : List Byte) (b shift : Byte) (count : Nat) :
    gainByte b { bytesIn received with shift := shift, bitCount := count } = bytesIn (received ++ [b]) := by
  cases received <;> rfl

/-- The eight edges of a byte make it whole, and it joins the bytes received (R169). -/
theorem clocks_byte (received : List Byte) (b : Byte) (s : State) :
    ∃ l, gainByte b l = bytesIn (received ++ [b]) ∧
      runCommands (clocks (bitsOfByte b)) (withLink (bytesIn received) s) = some (byteWhole b (withLink l s)) := by
  have seven := clocks_unfinished ((bitsOfByte b).take 7) (l := bytesIn received) rfl rfl (Nat.le_refl 7) s
  refine ⟨_, gainByte_bytesIn received b (((bitsOfByte b).take 7).foldl shiftIn 0) 7, ?_⟩
  have eighth : shiftIn (((bitsOfByte b).take 7).foldl shiftIn 0) (b.getLsbD 0) = b := shiftIn_bits b
  have whole : clocks (bitsOfByte b) = clocks ((bitsOfByte b).take 7) ++ [.mckRisingEdge (b.getLsbD 0)] := rfl
  rw [whole, runCommands_append, seven, Option.bind_some, runCommands_cons (exec_mckRisingEdge_receiving rfl _), runCommands]
  exact congrArg some ((sampleBit_eighth rfl _).trans (congrArg (byteWhole · _) eighth))

/-- A byte that does not complete the frame's input leaves the frame in progress (R169). -/
theorem byteWhole_short {l : Link} {b : Byte} (gained : gainByte b s.link = l) (named : l.code = some code)
    (short : parseFrame code l.params = none) : byteWhole b s = withLink (present l) s := by
  unfold byteWhole
  rw [gained]
  dsimp only
  rw [named]
  dsimp only
  rw [short]
  rfl

/-- The byte that completes the frame's input brings the take point (R169, R170). -/
theorem byteWhole_completes {l : Link} {b : Byte} (gained : gainByte b s.link = l) (named : l.code = some code)
    (read : parseFrame code l.params = some i) : byteWhole b s = takePoint code l.params (linkAct i) s := by
  unfold byteWhole
  rw [gained]
  dsimp only
  rw [named]
  dsimp only
  rw [read]

/-- What a take point leaves does not depend on the frame that it found (R170). -/
theorem takePoint_withLink (l : Link) (s : State) :
    takePoint code params (linkAct i) (withLink l s) = takePoint code params (linkAct i) s := by
  rw [takePoint, linkAct_withLink]
  rfl

theorem clocks_bytes_cons (b : Byte) (rest : List Byte) :
    clocks (bitsOfBytes (b :: rest)) = clocks (bitsOfByte b) ++ clocks (bitsOfBytes rest) :=
  clocks_append _ _

/-- The edges of the bytes that a frame still lacks bring its take point, at the last of them and not before (R169, R170). -/
theorem clocks_frame (read : parseFrame code params = some i) (b : Byte) (rest : List Byte) {received : List Byte}
    (frame : received ++ b :: rest = code :: params) (s : State) :
    runCommands (clocks (bitsOfBytes (b :: rest))) (withLink (bytesIn received) s) = some (takePoint code params (linkAct i) s) := by
  induction rest generalizing b received with
  | nil =>
    obtain ⟨l, gained, clocked⟩ := clocks_byte received b s
    rw [frame] at gained
    rw [clocks_bytes_cons, runCommands_append, clocked, byteWhole_completes gained rfl read, takePoint_withLink]
    rfl
  | cons c rest ih =>
    obtain ⟨l, gained, clocked⟩ := clocks_byte received b s
    have later : (received ++ [b]) ++ c :: rest = code :: params := by rw [List.append_assoc]; exact frame
    obtain ⟨begun, begins, lacked⟩ : ∃ begun, received ++ [b] = code :: begun ∧ params = begun ++ c :: rest :=
      (List.append_eq_cons_iff.1 later).resolve_left fun empty => List.append_ne_nil_of_right_ne_nil _ (List.cons_ne_nil _ _) empty.1
    have lacks : begun.length ≠ params.length := by
      rw [lacked, List.length_append, List.length_cons]
      omega
    rw [begins] at gained
    rw [clocks_bytes_cons, runCommands_append, clocked, byteWhole_short gained rfl (parseFrame_length read lacks), Option.bind_some,
      ← begins]
    exact ih c later

end Sys2Proof.Machine

open Sys2Proof Sys2Proof.Machine

/-- Settles O13: the row of a command and the edges of its whole frame come to the same take point. -/
theorem edgesCarryTheCommand : Obligations.EdgesCarryTheCommand := by
  intro i code params s wf frame running opens
  have ready : canComplete (code :: params) s = true := by
    rw [canComplete, running, opens]
    rfl
  have clocked := clocks_frame (received := []) (parseFrame_of_frame wf frame) code params rfl s
  rw [withLink_self (l := bytesIn []) opens] at clocked
  refine ⟨_, ?_, clocked⟩
  rw [exec_linkRow (by rw [frame]; rfl), if_pos wf, atTakePoint, frame]
  exact congrArg Host.Outcome.next (if_pos ready)

end
section
/-! SUPPORT. The answer clocked out on MDO, one bit for each edge (O14). -/

namespace Sys2Proof.Machine

variable {code : Byte} {params answer : List Byte}

/-- The link after n edges since the take point: its next answer bit is bit n (R171). -/
def clockedOut (code : Byte) (params answer : List Byte) (n : Nat) : Link :=
  present { respondingLink code params answer with position := n / 8, bitPosition := n % 8 }

theorem clockedOut_zero : clockedOut code params answer 0 = respondingLink code params answer := rfl

/-- An edge moves the answer on by one bit (R171). -/
theorem nextAnswerBit_clockedOut (n : Nat) : nextAnswerBit (clockedOut code params answer n) = clockedOut code params answer (n + 1) := by
  show present (if n % 8 + 1 ≥ 8 then _ else _) = _
  unfold clockedOut
  split
  · next last =>
    have byte : (n + 1) / 8 = n / 8 + 1 := by omega
    have bit : (n + 1) % 8 = 0 := by omega
    rw [byte, bit]
    rfl
  · next inside =>
    have byte : (n + 1) / 8 = n / 8 := by omega
    have bit : (n + 1) % 8 = n % 8 + 1 := by omega
    rw [byte, bit]
    rfl

/-- In RESPONDING every edge moves the answer on, whatever MDI shows, and nothing but the link moves (R168, R171). -/
theorem clocks_respond (mdis : List Bool) (n : Nat) (s : State) :
    runCommands (clocks mdis) (withLink (clockedOut code params answer n) s) =
      some (withLink (clockedOut code params answer (n + mdis.length)) s) := by
  induction mdis generalizing n with
  | nil => rfl
  | cons mdi rest ih =>
    have moved : exec (.mckRisingEdge mdi) (withLink (clockedOut code params answer n) s) =
        .next (withLink (clockedOut code params answer (n + 1)) s) := by
      rw [← nextAnswerBit_clockedOut]
      rfl
    rw [clocks, List.map_cons, runCommands_cons moved, ← clocks, ih, List.length_cons, Nat.add_assoc, Nat.add_comm 1]

/-- Bit n of a run of bytes is a bit of its byte n / 8, most significant first; past the end both are zero (section 0.6.5, R171). -/
theorem bitsOfBytes_getD (bytes : List Byte) (n : Nat) :
    (bitsOfBytes bytes).getD n false = (bytes.getD (n / 8) 0).getLsbD (7 - n % 8) := by
  induction bytes generalizing n with
  | nil => simp [bitsOfBytes]
  | cons b rest ih =>
    have first : bitsOfBytes (b :: rest) = bitsOfByte b ++ bitsOfBytes rest := rfl
    have eight : (bitsOfByte b).length = 8 := rfl
    rw [first]
    by_cases inside : n < 8
    · rw [List.getD_append _ _ _ _ (by omega), Nat.div_eq_of_lt inside, Nat.mod_eq_of_lt inside, List.getD_cons_zero]
      interval_cases n <;> rfl
    · obtain ⟨m, rfl⟩ : ∃ m, n = m + 8 := ⟨n - 8, by omega⟩
      rw [List.getD_append_right _ _ _ _ (by omega), eight, Nat.add_sub_cancel, ih, Nat.add_mod_right, Nat.add_div_right m (by decide),
        List.getD_cons_succ]

end Sys2Proof.Machine

open Sys2Proof Sys2Proof.Machine

/-- Settles O14: after n edges the link stands at bit n of the answer, and MDO shows that bit. -/
theorem answerIsClockedOut : Obligations.AnswerIsClockedOut := by
  intro s code params answer mdis responding
  have clocked := clocks_respond (code := code) (params := params) (answer := answer) mdis 0 s
  rw [withLink_self (l := clockedOut code params answer 0) responding, Nat.zero_add] at clocked
  refine ⟨_, clocked, ?_, rfl⟩
  exact congrArg some (bitsOfBytes_getD answer mdis.length).symm

end

section
/-! SUPPORT. Every command completes, and the waiting commands stay (O2); a step carries out the command at the front (O1). -/

namespace Sys2Proof.Machine

variable {s t : State}

/-- No row faults or is refused: each is a plain update followed by internal work (logs 5 and 31). -/
theorem exec_completes (c : Instr) (s : State) : ∃ t, exec c s = .next t := by
  obtain ⟨-, t, done, -, -⟩ := exec_shape c s
  exact ⟨t, done⟩

theorem exec_pending {c : Instr} (done : exec c s = .next t) : t.pending = s.pending := (rangesKept_exec done).pending

theorem step_front {c : Instr} {rest : List Instr} (front : s.pending = c :: rest) : step s = exec c { s with pending := rest } := by
  rw [step, front]

end Sys2Proof.Machine

open Sys2Proof Sys2Proof.Machine

/-- Settles O2, by the shape of the command: neither its update nor the internal work after it touches the queue. -/
theorem waitingCommandsAreKept : Obligations.WaitingCommandsAreKept := by
  intro c s
  obtain ⟨t, done⟩ := exec_completes c s
  exact ⟨t, done, exec_pending done⟩

/-- Settles O1: the queue's rest is the queue that the command finds. -/
theorem stepRunsTheFrontCommand : Obligations.StepRunsTheFrontCommand := by
  intro c s
  exact step_front rfl

end
